-- ==== Sys2Proof/Word.lean ====
section
/-! DEFINITION. The word and field widths of the block (00_scope.md R9, R10). -/

namespace Sys2Proof

/-- A bus word, a register or a command word: 32 bits (R9). -/
abbrev Word := BitVec 32

/-- One byte of a frame buffer or of a slot's data. -/
abbrev Byte := BitVec 8

/-- A checksum value (R9), or the IDX field of RES_SLOT (10_state.md R40). -/
abbrev Half := BitVec 16

/-- The 11-bit length and offset fields of 10_state.md R29, R31 to R34, R37, R39, R43. -/
abbrev Len := BitVec 11

/-- A byte offset of the bus target port (20_memory.md R60, 60_exceptions.md R164). -/
abbrev BusOffset := BitVec 16

end Sys2Proof
end

