-- ==== Sys2Proof/Config.lean ====
section
/-! DEFINITION. The parameters an implementation fixes (00_scope.md R8) and the free values.
A machine carries its parameters in `State.cfg`, so a statement about every state is one about every value of them
(log 1). -/

namespace Sys2Proof

/-- FLAG_CODE: the byte of each of the nine flag variants (30_encoding.md R84, R85). -/
structure FlagCodes where
  filename      : Byte
  filenameAck   : Byte
  filenameError : Byte
  data          : Byte
  resentData    : Byte
  resentTimeout : Byte
  rr            : Byte
  srej          : Byte
  eof           : Byte
  deriving DecidableEq, Repr

/-- The parameters of 00_scope.md R8. HDR_LEN and SEQ_MAX are fixed, FRAME_MAX, BUF_SIZE and CHUNK_MAX are derived
(Machine/Operands.lean), and LAT is the freedom of when a command completes (log 17). -/
structure Config where
  /-- BASE: the address of the block in the host's address space (20_memory.md R60, R61). -/
  base       : Nat
  /-- CAP_MAX: the number of physical window slots. -/
  capMax     : Nat
  /-- PAYLOAD_MAX: the largest payload in bytes, and so CHUNK_MAX. -/
  payloadMax : Nat
  /-- FLAG_CODE. -/
  flags      : FlagCodes
  deriving DecidableEq, Repr

/-- The default FLAG_CODE of 30_encoding.md R86: 1 to 9 in the order of R84 (log 13). -/
def FlagCodes.defaults : FlagCodes :=
  { filename := 0x01, filenameAck := 0x02, filenameError := 0x03, data := 0x04, resentData := 0x05,
    resentTimeout := 0x06, rr := 0x07, srej := 0x08, eof := 0x09 }

/-- The default parameters of 00_scope.md R8: CAP_MAX 64, PAYLOAD_MAX 1400. R8 gives BASE no default. DESIGN CHOICE,
safe: 0 here; every statement over all states holds for every BASE (log 3). -/
def Config.defaults : Config :=
  { base := 0, capMax := 64, payloadMax := 1400, flags := FlagCodes.defaults }

/-- FREE VALUE: byte `i` of the data of slot `k` where no WIN_ADD has written it since reset.
93_implementation_defined.md U2 treats it as any value; no rule reads it (log 8). -/
opaque Config.freeSlotByte (k i : Nat) : Byte

end Sys2Proof
end

