-- ==== Sys2Proof/Syntax.lean ====
section
/-! DEFINITION. The vocabulary of the block: commands, flags, registers, bus accesses, and the lines of a host program. -/

namespace Sys2Proof

/-- The two frame buffers (10_state.md R50). -/
inductive Buf
  | txf
  | rxf
  deriving DecidableEq, Repr

/-- The nine flag variants, in the order of 30_encoding.md R84. -/
inductive Flag
  | filename | filenameAck | filenameError | data | resentData | resentTimeout | rr | srej | eof
  deriving DecidableEq, Repr

/-- The assigned opcodes of 30_encoding.md R91. -/
inductive Op
  | nop | cksum | encode | decode
  | winInit | winAdd | winRelease | winGet | winAck | winAdvance | winObserve
  deriving DecidableEq, Repr

/-- The commands: one constructor per row of spec/opcode_table.json, with its option bits (30_encoding.md R91, R92). -/
inductive Instr
  | nop
  /-- `bsel`: the buffer the range lies in (BSEL). -/
  | cksum (bsel : Buf)
  | encode
  | decode
  | winInit
  /-- `src`: the buffer the data comes from (SRC). -/
  | winAdd (src : Buf)
  | winRelease
  /-- `copy`: also copy the slot's data to TXF (COPY). -/
  | winGet (copy : Bool)
  | winAck
  | winAdvance
  | winObserve
  deriving DecidableEq, Repr

/-- Why a command word is illegal: the three cases of 30_encoding.md R93, in the order R105 checks them. -/
inductive IllegalWord
  /-- (a) RSV is not 0. -/
  | reservedBits
  /-- (b) OP is not in rule R91. -/
  | unassignedOp
  /-- (c) a reserved OPT bit is 1. -/
  | reservedOption
  deriving DecidableEq, Repr

/-- The registers of 10_state.md R20, in the order of their offsets. -/
inductive Reg
  | id | ctrl | status | cmd | param
  | argSeq | argFlag | argLen | argCap | argChunk | ckOff | ckLen | rxLen
  | resSeq | resFlag | resLen | resCksum | txLen | resSlot | resSlotSeq
  | winCap | winChunk | winLowest | winCurrent | winEdge | winHwm | winStat
  deriving DecidableEq, Repr

/-- The values of `bus_size` (60_exceptions.md R164). -/
inductive Size
  /-- 0: 8-bit. -/
  | byte
  /-- 1: 16-bit, always a bus error. -/
  | half
  /-- 2: 32-bit. -/
  | word
  /-- 3: reserved, a bus error. -/
  | reserved
  deriving DecidableEq, Repr

/-- One access at the bus target port: `bus_write`, `bus_size`, `bus_addr`, `bus_wdata` (60_exceptions.md R164). -/
structure Access where
  write : Bool
  size  : Size
  addr  : BusOffset
  /-- Write data; a read ignores it. -/
  wdata : Word
  deriving DecidableEq, Repr

/-- A line of a host program (30_encoding.md R95). `wr32`, `rd32`, `wr8`, `rd8` and `cmd` are all bus accesses. -/
inductive HostLine
  | access (a : Access)
  /-- Repeat `rd32 STATUS` until BUSY reads 0. -/
  | wait
  /-- `rd32 off`; the program asserts that the result equals `v`. -/
  | expect (off : BusOffset) (v : Word)
  deriving DecidableEq, Repr

/-- Who makes the next step: an agent of 00_scope.md R7, or the assertion of `rst_n` (70_reset_and_hazards.md R170). -/
inductive Mover
  | host
  | engine
  | hardReset
  deriving DecidableEq, Repr

end Sys2Proof
end

