-- ==== Sys2Proof/WellFormed.lean ====
section
/-! DEFINITION. What is well formed: parameters (00_scope.md R8), command words (30_encoding.md R93) and commands. -/

namespace Sys2Proof

/-- The nine codes of FLAG_CODE, in the order of 30_encoding.md R84. -/
def FlagCodes.all (c : FlagCodes) : List Byte :=
  [c.filename, c.filenameAck, c.filenameError, c.data, c.resentData, c.resentTimeout, c.rr, c.srej, c.eof]

/-- The legal parameters: 1 ≤ CAP_MAX ≤ 65536 and FLAG_CODE injective (00_scope.md R8, 30_encoding.md R85), and
PAYLOAD_MAX in 1 to 2040, so that FRAME_MAX fits the 11-bit length fields (log 2). Every BASE is
legal. -/
def Config.wf (c : Config) : Bool :=
  decide (1 ≤ c.capMax) && decide (c.capMax ≤ 65536) && decide (1 ≤ c.payloadMax) && decide (c.payloadMax ≤ 2040) &&
    decide c.flags.all.Nodup

/-- A legal command word: none of the three cases of 30_encoding.md R93, as 40_sequencer.md R105 checks them. -/
def legalWord (w : Word) : Bool :=
  decide (w.extractLsb' 16 16 = 0#16) &&
    ([0x00, 0x01, 0x02, 0x03, 0x10, 0x11, 0x12, 0x13, 0x14, 0x15, 0x16] : List Byte).contains (w.extractLsb' 0 8) &&
    decide (w.extractLsb' 8 8 &&&
      ~~~(if w.extractLsb' 0 8 ∈ ([0x01, 0x11, 0x13] : List Byte) then 0x01#8 else 0x00#8) = 0#8)

/-- A well-formed command. The operands of `Instr` admit exactly the option values of 30_encoding.md R92, so there is
no field left to check. -/
def Instr.wf : Instr → Bool
  | .nop => true
  | .cksum _ => true
  | .encode => true
  | .decode => true
  | .winInit => true
  | .winAdd _ => true
  | .winRelease => true
  | .winGet _ => true
  | .winAck => true
  | .winAdvance => true
  | .winObserve => true

end Sys2Proof
end

