-- ==== Sys2Proof/Decode.lean ====
section
/-! DEFINITION. The command word (30_encoding.md R90 to R93): its decoder, total on every word and rejecting by name,
and its encoder. -/

namespace Sys2Proof

/-- OP, bits 7:0 (R90). -/
def opField (w : Word) : Byte := w.extractLsb' 0 8

/-- OPT, bits 15:8 (R90). -/
def optField (w : Word) : Byte := w.extractLsb' 8 8

/-- RSV, bits 31:16 (R90). -/
def rsvField (w : Word) : Half := w.extractLsb' 16 16

/-- The opcode map of R91, from mnemonic to OP. -/
def opCode : Op → Byte
  | .nop => 0x00
  | .cksum => 0x01
  | .encode => 0x02
  | .decode => 0x03
  | .winInit => 0x10
  | .winAdd => 0x11
  | .winRelease => 0x12
  | .winGet => 0x13
  | .winAck => 0x14
  | .winAdvance => 0x15
  | .winObserve => 0x16

/-- The opcode map of R91, from OP to mnemonic; `none` for a value no row names. -/
def opOfCode (b : Byte) : Option Op :=
  match b.toNat with
  | 0x00 => some .nop
  | 0x01 => some .cksum
  | 0x02 => some .encode
  | 0x03 => some .decode
  | 0x10 => some .winInit
  | 0x11 => some .winAdd
  | 0x12 => some .winRelease
  | 0x13 => some .winGet
  | 0x14 => some .winAck
  | 0x15 => some .winAdvance
  | 0x16 => some .winObserve
  | _ => none

/-- OPTMASK of 40_sequencer.md R105: the option bits of R92. -/
def optMask : Op → Byte
  | .cksum | .winAdd | .winGet => 0x01
  | .nop | .encode | .decode | .winInit | .winRelease | .winAck | .winAdvance | .winObserve => 0x00

/-- BSEL and SRC: 0 is TXF, 1 is RXF (R92). -/
def bufOfBit (b : Bool) : Buf := if b then .rxf else .txf

/-- The bit of BSEL and SRC (R92). -/
def bitOfBuf : Buf → Bool
  | .txf => false
  | .rxf => true

/-- The command of an opcode and its option bits (R92). -/
def instrOf (o : Op) (opt : Byte) : Instr :=
  match o with
  | .nop => .nop
  | .cksum => .cksum (bufOfBit (opt.getLsbD 0))
  | .encode => .encode
  | .decode => .decode
  | .winInit => .winInit
  | .winAdd => .winAdd (bufOfBit (opt.getLsbD 0))
  | .winRelease => .winRelease
  | .winGet => .winGet (opt.getLsbD 0)
  | .winAck => .winAck
  | .winAdvance => .winAdvance
  | .winObserve => .winObserve

/-- The opcode of a command. -/
def opOf : Instr → Op
  | .nop => .nop
  | .cksum _ => .cksum
  | .encode => .encode
  | .decode => .decode
  | .winInit => .winInit
  | .winAdd _ => .winAdd
  | .winRelease => .winRelease
  | .winGet _ => .winGet
  | .winAck => .winAck
  | .winAdvance => .winAdvance
  | .winObserve => .winObserve

/-- The option bits of a command (R92). -/
def optOf : Instr → Byte
  | .cksum b => if bitOfBuf b then 0x01 else 0x00
  | .winAdd b => if bitOfBuf b then 0x01 else 0x00
  | .winGet c => if c then 0x01 else 0x00
  | .nop | .encode | .decode | .winInit | .winRelease | .winAck | .winAdvance | .winObserve => 0x00

/-- The decoder: the checks of 40_sequencer.md R105 in its order, then the command of R91 and R92. -/
def decode (w : Word) : Except IllegalWord Instr :=
  if rsvField w ≠ 0 then .error .reservedBits
  else match opOfCode (opField w) with
    | none => .error .unassignedOp
    | some o => if optField w &&& ~~~(optMask o) ≠ 0 then .error .reservedOption else .ok (instrOf o (optField w))

/-- The encoder: RSV = 0, OPT and OP of R90 to R92. -/
def encode (i : Instr) : Word := 0#16 ++ optOf i ++ opCode (opOf i)

/-- What the decoder reads from a word numbered as spec/opcode_table.json numbers it. A command word is always one
32-bit word (R90): bits above `nbits` are 0, and a value that does not fit one word is no command. -/
def decodeTableWord (nbits w : Nat) : Option Instr :=
  if w % 2 ^ nbits < 2 ^ 32 then
    match decode (BitVec.ofNat 32 (w % 2 ^ nbits)) with
    | .ok i => some i
    | .error _ => none
  else none

end Sys2Proof
end

