-- ==== Sys2Proof/Machine/State.lean ====
section
/-! DEFINITION. The state of the block (10_state.md), of its agents, and the ways a step can stop. -/

namespace Sys2Proof.Machine

/-- The result codes of 60_exceptions.md R151. Codes 14 and 15 are never produced, so they do not exist here. -/
inductive RC
  | ok | cksumFail | short | len | range | flag | noInit | cfg | seqRange | noMatch | stale | ahead | full | badCmd
  deriving DecidableEq, Repr

/-- The engine state E of 10_state.md R51. STATUS.BUSY is a view of it. -/
inductive Engine
  | idle
  | busy
  deriving DecidableEq, Repr

/-- The argument registers of 10_state.md R27 to R34, each holding only its named field bits. -/
structure Args where
  seq   : Word
  flag  : Byte
  len   : Len
  cap   : Word
  chunk : Len
  ckOff : Len
  ckLen : Len
  rxLen : Len
  deriving DecidableEq, Repr

/-- The latched copy of the accepted command word and its arguments (10_state.md R51, 40_sequencer.md R101). -/
structure Latch where
  w    : Word
  args : Args
  deriving DecidableEq, Repr

/-- The stored bits of STATUS (10_state.md R24); BUSY is `State.engine`. -/
structure Status where
  done      : Bool
  overrun   : Bool
  busErr    : Bool
  rc        : RC
  flagKnown : Bool
  deriving DecidableEq, Repr

/-- The result registers of 10_state.md R35 to R41. -/
structure Results where
  seq     : Word
  flag    : Byte
  len     : Len
  cksum   : Half
  txLen   : Len
  /-- RES_SLOT: MATCH at bit 17, OCC at bit 16, IDX in bits 15:0 (R40). -/
  slot    : BitVec 18
  slotSeq : Word
  deriving DecidableEq, Repr

/-- The window registers of 10_state.md R42 to R48. -/
structure Window where
  cap     : BitVec 17
  chunk   : Len
  lowest  : Word
  current : Word
  edge    : Word
  hwm     : Word
  /-- WIN_STAT.VALID (R48). -/
  valid   : Bool
  deriving DecidableEq, Repr

/-- Bytes by address: the written bytes alone, addresses strictly rising. An unlisted byte has no value
(00_scope.md R13). -/
abbrev Memory := List Host.Cell

/-- The canonical form of a memory: addresses strictly rise. -/
abbrev Memory.wf (m : Memory) : Prop := m.Pairwise (fun x y => x.1 < y.1)

/-- A window slot (10_state.md R49). -/
structure Slot where
  /-- The sequence number, as 32-bit two's complement; -1 means empty. -/
  seq  : Word
  occ  : Bool
  dlen : Len
  /-- The data bytes some WIN_ADD has written since reset, by their index. -/
  data : Memory
  deriving DecidableEq, Repr

/-- The response of the bus target port to its last access: `bus_err` and `bus_rdata` (60_exceptions.md R164). -/
structure BusResponse where
  err   : Bool
  /-- The data of the last read. -/
  rdata : Word
  deriving DecidableEq, Repr

/-- The whole machine. -/
structure State where
  /-- The parameters of this implementation (00_scope.md R8); no step changes them. -/
  cfg      : Config
  /-- CTRL.IE (10_state.md R23). -/
  ie       : Bool
  status   : Status
  engine   : Engine
  latch    : Latch
  args     : Args
  res      : Results
  win      : Window
  /-- The CAP_MAX window slots (10_state.md R49). -/
  slots    : List Slot
  /-- The frame buffers (10_state.md R50), by bus offset: TXF from 0x1000, RXF from 0x2000 (20_memory.md R60). -/
  mem      : Memory
  bus      : BusResponse
  /-- MODEL FIELD: the lines the host agent has still to perform (log 5). -/
  program  : List HostLine
  /-- MODEL FIELD: who makes the next steps (log 4). -/
  schedule : List Mover
  deriving DecidableEq, Repr

/-- The argument registers at reset (10_state.md R20). -/
def Args.reset : Args :=
  { seq := 0, flag := 0, len := 0, cap := 0, chunk := 0, ckOff := 0, ckLen := 0, rxLen := 0 }

/-- STATUS at reset (70_reset_and_hazards.md R170). -/
def Status.reset : Status :=
  { done := false, overrun := false, busErr := false, rc := .ok, flagKnown := false }

/-- The result registers at reset (10_state.md R20). -/
def Results.reset : Results :=
  { seq := 0, flag := 0, len := 0, cksum := 0, txLen := 0, slot := 0, slotSeq := 0 }

/-- The window registers at reset: no window (70_reset_and_hazards.md R170). -/
def Window.reset : Window :=
  { cap := 0, chunk := 0, lowest := 0, current := 0, edge := 0, hwm := 0, valid := false }

/-- A slot at reset. DESIGN CHOICE, unsafe: the spec leaves a slot's fields unspecified there; the model names the
empty slot. No rule reads them (log 7). -/
def Slot.reset : Slot := { seq := 0xFFFFFFFF, occ := false, dlen := 0, data := [] }

/-- The state after reset of the implementation with parameters `c` (70_reset_and_hazards.md R170).
DESIGN CHOICE, unsafe: the latch (log 6), the slots (log 7) and the bus response (log 11), which the spec leaves
unspecified. -/
def State.resetWith (c : Config) : State :=
  { cfg := c, ie := false, status := .reset, engine := .idle, latch := { w := 0, args := .reset }, args := .reset,
    res := .reset, win := .reset, slots := List.replicate c.capMax .reset, mem := [], bus := { err := false, rdata := 0 },
    program := [], schedule := [] }

/-- The machine right after reset, with the default parameters of 00_scope.md R8. -/
def State.reset : State := State.resetWith .defaults

/-- The ways a step stops. -/
inductive Fault
  /-- Raised by a bus access that 20_memory.md R62, R63(c) or R65 makes a bus error (R64). `after` is the state the
  access leaves, STATUS.BUSERR set: a run that answers the error goes on from it. Safe: R64 says to stop (log 10). -/
  | busError (addr : BusOffset) (after : State)
  /-- Raised by a bus read, CKSUM, ENCODE, DECODE or WIN_ADD that reads a frame-buffer byte nothing has written since
  reset; `addr` is its bus offset (00_scope.md R13). Safe: the device returns whatever its RAM holds (log 9). -/
  | unwrittenByte (addr : Nat)
  /-- Raised by an `expect` line of a host program whose read does not give the value it asserts (30_encoding.md R95).
  Safe: no such run goes on (log 16). -/
  | expectFailed (addr : BusOffset) (got : Word)
  deriving DecidableEq, Repr

/-- Why the model has no meaning for an instruction. -/
inductive Refusal
  /-- Raised by no arm of `exec` now: every command has its meaning. Safe: a refusal stops the run. -/
  | notModelled (mnemonic : String)
  deriving DecidableEq, Repr

/-- The outcome of a step or of a command. -/
abbrev Result := Host.Outcome State Fault Refusal

end Sys2Proof.Machine
end

