-- ==== Sys2Proof/Machine/Operands.lean ====
section
/-! DEFINITION. Derived parameters, big-endian byte order, the bus address map, and slot indexes. -/

namespace Sys2Proof.Machine

/-- HDR_LEN (00_scope.md R8). -/
def hdrLen : Nat := 7

/-- SEQ_MAX, 2^31 - 1 (00_scope.md R8). -/
def seqMax : Nat := 0x7FFFFFFF

/-- FRAME_MAX (00_scope.md R8). -/
def frameMax (c : Config) : Nat := hdrLen + c.payloadMax

/-- BUF_SIZE: FRAME_MAX rounded up to a multiple of 4 (00_scope.md R8). -/
def bufSize (c : Config) : Nat := (frameMax c + 3) / 4 * 4

/-- CHUNK_MAX (00_scope.md R8). -/
def chunkMax (c : Config) : Nat := c.payloadMax

/-- `be32(v)`: the four bytes of `v`, most significant first (00_scope.md R11). -/
def be32Bytes (v : Word) : List Byte :=
  [v.extractLsb' 24 8, v.extractLsb' 16 8, v.extractLsb' 8 8, v.extractLsb' 0 8]

/-- `be16(v)`: the two bytes of `v`, most significant first (00_scope.md R11). -/
def be16Bytes (v : Half) : List Byte := [v.extractLsb' 8 8, v.extractLsb' 0 8]

/-- The word of four bytes, the first the most significant (00_scope.md R11). -/
def be32 (b0 b1 b2 b3 : Byte) : Word := b0 ++ b1 ++ b2 ++ b3

/-- The bus offset of byte 0 of a frame buffer (20_memory.md R60). -/
def bufBase : Buf → Nat
  | .txf => 0x1000
  | .rxf => 0x2000

/-- The bus offset of `B[i]` (20_memory.md R60). -/
def bufAddr (b : Buf) (i : Nat) : Nat := bufBase b + i

/-- The host's address of an offset of the block: `BASE + off` (30_encoding.md R95, 20_memory.md R60). -/
def hostAddress (c : Config) (off : BusOffset) : Nat := c.base + off.toNat

/-- `bus_addr`: the offset from BASE at which the block sees an access to a host address (60_exceptions.md R164). -/
def portOffset (c : Config) (addr : Nat) : BusOffset := BitVec.ofNat 16 (addr - c.base)

/-- The register at an offset (10_state.md R20); `none` for an unmapped one. -/
def regOfOffset (a : Nat) : Option Reg :=
  match a with
  | 0x000 => some .id
  | 0x004 => some .ctrl
  | 0x008 => some .status
  | 0x00C => some .cmd
  | 0x010 => some .param
  | 0x020 => some .argSeq
  | 0x024 => some .argFlag
  | 0x028 => some .argLen
  | 0x02C => some .argCap
  | 0x030 => some .argChunk
  | 0x034 => some .ckOff
  | 0x038 => some .ckLen
  | 0x03C => some .rxLen
  | 0x040 => some .resSeq
  | 0x044 => some .resFlag
  | 0x048 => some .resLen
  | 0x04C => some .resCksum
  | 0x050 => some .txLen
  | 0x054 => some .resSlot
  | 0x058 => some .resSlotSeq
  | 0x060 => some .winCap
  | 0x064 => some .winChunk
  | 0x068 => some .winLowest
  | 0x06C => some .winCurrent
  | 0x070 => some .winEdge
  | 0x074 => some .winHwm
  | 0x078 => some .winStat
  | _ => none

/-- The offset of a register (10_state.md R20). -/
def regOffset : Reg → BusOffset
  | .id => 0x000
  | .ctrl => 0x004
  | .status => 0x008
  | .cmd => 0x00C
  | .param => 0x010
  | .argSeq => 0x020
  | .argFlag => 0x024
  | .argLen => 0x028
  | .argCap => 0x02C
  | .argChunk => 0x030
  | .ckOff => 0x034
  | .ckLen => 0x038
  | .rxLen => 0x03C
  | .resSeq => 0x040
  | .resFlag => 0x044
  | .resLen => 0x048
  | .resCksum => 0x04C
  | .txLen => 0x050
  | .resSlot => 0x054
  | .resSlotSeq => 0x058
  | .winCap => 0x060
  | .winChunk => 0x064
  | .winLowest => 0x068
  | .winCurrent => 0x06C
  | .winEdge => 0x070
  | .winHwm => 0x074
  | .winStat => 0x078

/-- What a bus offset names (20_memory.md R60). -/
inductive Region
  | reg (r : Reg)
  | buf (b : Buf) (off : Nat)
  | unmapped
  deriving DecidableEq, Repr

/-- The address map of 20_memory.md R60, R62. -/
def regionOf (c : Config) (a : Nat) : Region :=
  if a < 0x1000 then
    match regOfOffset a with
    | some r => .reg r
    | none => .unmapped
  else if a < 0x1000 + bufSize c then .buf .txf (a - 0x1000)
  else if 0x2000 ≤ a ∧ a < 0x2000 + bufSize c then .buf .rxf (a - 0x2000)
  else .unmapped

/-- The encoding of `bus_size` (60_exceptions.md R164). -/
def sizeOfBits (b : BitVec 2) : Size :=
  match b.toNat with
  | 0 => .byte
  | 1 => .half
  | 2 => .word
  | _ => .reserved

/-- The slot index of sequence number `seq` in a window (43_window.md R135): `seq mod WIN_CAP`. -/
def slotIndex (w : Window) (seq : Word) : Nat := seq.toNat % w.cap.toNat

end Sys2Proof.Machine
end

