-- ==== Sys2Proof/Machine/Flags.lean ====
section
/-! DEFINITION. Every flag the spec gives (10_state.md R52): STATUS, irq, FLAG_KNOWN, and the slot report. -/

namespace Sys2Proof.Machine

/-- The number of a result code (60_exceptions.md R151). -/
def rcCode : RC → BitVec 4
  | .ok => 0
  | .cksumFail => 1
  | .short => 2
  | .len => 3
  | .range => 4
  | .flag => 5
  | .noInit => 6
  | .cfg => 7
  | .seqRange => 8
  | .noMatch => 9
  | .stale => 10
  | .ahead => 11
  | .full => 12
  | .badCmd => 13

/-- STATUS.BUSY, which always equals E = BUSY (10_state.md R51). -/
def isBusy (s : State) : Bool := decide (s.engine = .busy)

/-- The STATUS register as a bus read gives it (10_state.md R24). -/
def statusWord (s : State) : Word :=
  0#15 ++ BitVec.ofBool s.status.flagKnown ++ 0#4 ++ rcCode s.status.rc ++ 0#4 ++ BitVec.ofBool s.status.busErr ++
    BitVec.ofBool s.status.overrun ++ BitVec.ofBool s.status.done ++ BitVec.ofBool (isBusy s)

/-- The interrupt line: CTRL.IE and STATUS.DONE (60_exceptions.md R155). -/
def irq (s : State) : Bool := s.ie && s.status.done

/-- The code of a flag variant under FLAG_CODE (30_encoding.md R85). -/
def codeOf (c : FlagCodes) : Flag → Byte
  | .filename => c.filename
  | .filenameAck => c.filenameAck
  | .filenameError => c.filenameError
  | .data => c.data
  | .resentData => c.resentData
  | .resentTimeout => c.resentTimeout
  | .rr => c.rr
  | .srej => c.srej
  | .eof => c.eof

/-- Whether a byte is one of the nine codes: "in range(FLAG_CODE)" (30_encoding.md R86, 42_codec.md R120, R122). -/
def isFlagCode (c : FlagCodes) (b : Byte) : Bool := c.all.contains b

/-- MATCH: the slot is occupied and holds `seq` (10_state.md R40). -/
def slotMatches (x : Slot) (seq : Word) : Bool := x.occ && x.seq == seq

/-- RES_SLOT: MATCH ++ OCC ++ IDX[15:0] (10_state.md R40, 43_window.md R132). -/
def slotReport (isMatch occ : Bool) (k : Nat) : BitVec 18 :=
  BitVec.ofBool isMatch ++ BitVec.ofBool occ ++ BitVec.ofNat 16 k

end Sys2Proof.Machine
end

