-- ==== Sys2Proof/Machine/Ops.lean ====
section
/-! DEFINITION. The shared operations: memory, slots, command acceptance and completion, reset, bus errors. -/

namespace Sys2Proof.Machine

/-- The byte at `a`; `none` where nothing has written it since reset (00_scope.md R13). -/
def Memory.read? : Memory → Nat → Option Byte
  | [], _ => none
  | (k, b) :: m, a => if k = a then some b else Memory.read? m a

/-- Write one byte, keeping addresses strictly rising. -/
def Memory.write : Memory → Nat → Byte → Memory
  | [], a, v => [(a, v)]
  | (k, b) :: m, a, v =>
    if a < k then (a, v) :: (k, b) :: m
    else if a = k then (a, v) :: m
    else (k, b) :: Memory.write m a v

/-- Write consecutive bytes from `a` up (MemWrite of 00_scope.md R12). -/
def Memory.writeRange (m : Memory) (a : Nat) : List Byte → Memory
  | [] => m
  | v :: vs => Memory.writeRange (m.write a v) (a + 1) vs

/-- Read `n` consecutive bytes from `a` up (MemRead of 00_scope.md R12), or the lowest unwritten address among them. -/
def Memory.readRange (m : Memory) (a : Nat) : Nat → Except Nat (List Byte)
  | 0 => .ok []
  | n + 1 =>
    match m.read? a with
    | none => .error a
    | some b =>
      match Memory.readRange m (a + 1) n with
      | .error e => .error e
      | .ok bs => .ok (b :: bs)

/-- `B[off..off+n)` of a frame buffer (00_scope.md R11). -/
def readBuf (s : State) (b : Buf) (off n : Nat) : Except Nat (List Byte) := s.mem.readRange (bufAddr b off) n

/-- The same state with other buffer bytes. -/
def State.putMem (s : State) (m : Memory) : State := { s with mem := m }

/-- The same state with other result registers. -/
def State.putRes (s : State) (r : Results) : State := { s with res := r }

/-- The same state with other window registers. -/
def State.putWin (s : State) (w : Window) : State := { s with win := w }

/-- The same state with other slots. -/
def State.putSlots (s : State) (l : List Slot) : State := { s with slots := l }

/-- The same state with another STATUS. -/
def State.putStatus (s : State) (x : Status) : State := { s with status := x }

/-- The same state with other argument registers. -/
def State.putArgs (s : State) (x : Args) : State := { s with args := x }

/-- The same state with another CTRL.IE. -/
def State.putIe (s : State) (x : Bool) : State := { s with ie := x }

/-- The same state with another response at the bus port. -/
def State.putBus (s : State) (x : BusResponse) : State := { s with bus := x }

/-- The same state with other host lines to perform. -/
def State.putProgram (s : State) (p : List HostLine) : State := { s with program := p }

/-- The same state with another schedule. -/
def State.putSchedule (s : State) (p : List Mover) : State := { s with schedule := p }

/-- Write consecutive bytes of a frame buffer (00_scope.md R11, R12). -/
def writeBuf (s : State) (b : Buf) (off : Nat) (bytes : List Byte) : State :=
  s.putMem (s.mem.writeRange (bufAddr b off) bytes)

/-- `finish(rc)`, steps (2) to (4) of 40_sequencer.md R103. Step (5), irq, is a view of the state. -/
def finish (rc : RC) (s : State) : State :=
  { s with status := { s.status with rc := rc, done := true }, engine := .idle }

/-- Acceptance of a command word (40_sequencer.md R101). -/
def accept (w : Word) (s : State) : State :=
  { s with engine := .busy, status := { s.status with done := false }, latch := { w := w, args := s.args } }

/-- Submission of a command word by a write to CMD: acceptance (40_sequencer.md R100) or overrun (R102). -/
def submit (w : Word) (s : State) : State :=
  if isBusy s then s.putStatus { s.status with overrun := true } else accept w s

/-- Hardware reset (70_reset_and_hazards.md R170), and the effect of a soft reset (R171). What lies outside the block
stays: its parameters, the agents' future, and the last bus response (log 11). -/
def resetBlock (s : State) : State :=
  { State.resetWith s.cfg with bus := s.bus, program := s.program, schedule := s.schedule }

/-- The state a bus error leaves (20_memory.md R64): STATUS.BUSERR set, an error response, read data 0. -/
def busErrorState (a : Access) (s : State) : State :=
  (s.putStatus { s.status with busErr := true }).putBus
    { err := true, rdata := if a.write then s.bus.rdata else 0 }

/-- `raise BusError(addr)` (20_memory.md R64). -/
def raiseBusError (a : Access) (s : State) : Result := .fault (.busError a.addr (busErrorState a s))

/-- The response to a legal read (20_memory.md R69). -/
def respondRead (v : Word) (s : State) : State := s.putBus { err := false, rdata := v }

/-- The response to a legal write. -/
def respondWrite (s : State) : State := s.putBus { s.bus with err := false }

/-- `SLOT[k]` (00_scope.md R12). -/
def slotAt (s : State) (k : Nat) : Slot := s.slots.getD k .reset

/-- Replace `SLOT[k]`. -/
def setSlot (s : State) (k : Nat) (x : Slot) : State := s.putSlots (s.slots.set k x)

/-- A slot marked empty: `seq` -1, `occ` 0, `dlen` 0; its data bytes stay (43_window.md R131, R133). -/
def clearSlot (x : Slot) : Slot := { x with seq := 0xFFFFFFFF, occ := false, dlen := 0 }

/-- Mark slots `0..n-1` empty (43_window.md R131). -/
def clearSlots (n : Nat) (l : List Slot) : List Slot := (l.take n).map clearSlot ++ l.drop n

/-- `SLOT[k].data[0..dlen)`. A byte no WIN_ADD has written is a free value (93_implementation_defined.md U2, log 8). -/
def slotData (k : Nat) (x : Slot) : List Byte :=
  (List.range x.dlen.toNat).map fun i => (Memory.read? x.data i).getD (Config.freeSlotByte k i)

/-- The report of `SLOT[k]` before a command that names sequence number `seq`: RES_SLOT and RES_SLOT_SEQ
(10_state.md R40, R41). -/
def reportSlot (s : State) (k : Nat) (seq : Word) : State :=
  s.putRes { s.res with slot := slotReport (slotMatches (slotAt s k) seq) (slotAt s k).occ k
                        slotSeq := (slotAt s k).seq }

/-- The window preconditions of 43_window.md R130: the result code of the first check that fails. `usesSeq` is false
for WIN_ADVANCE alone, which reads no ARG_SEQ. -/
def windowCheck (usesSeq : Bool) (s : State) : Option RC :=
  if !s.win.valid then some .noInit
  else if usesSeq && decide (seqMax < s.latch.args.seq.toNat) then some .seqRange
  else none

end Sys2Proof.Machine
end

