-- ==== Sys2Proof/Machine/Checksum.lean ====
section
/-! DEFINITION. The Internet checksum and CKSUM (41_checksum.md). The arithmetic is the spec's rule R110, which its
writer took from RFC 1071 (PRESUMED there; log 12). -/

namespace Sys2Proof.Machine

/-- The raw sum S of 41_checksum.md R110: big-endian pairs from the start of the range, an odd trailing byte padded
with a zero low byte. -/
def rawSum : List Byte → Nat
  | [] => 0
  | [hi] => hi.toNat * 256
  | hi :: lo :: rest => hi.toNat * 256 + lo.toNat + rawSum rest

/-- The end-around-carry loop of 41_checksum.md R110, `while S > 0xFFFF: S <- S[15:0] + (S >> 16)`, at most `fuel`
rounds of it. Each round makes S smaller, so S rounds are enough. -/
def foldCarry : Nat → Nat → Nat
  | 0, S => S
  | fuel + 1, S => if S ≤ 0xFFFF then S else foldCarry fuel (S % 0x10000 + S / 0x10000)

/-- `cksum` of a byte sequence (41_checksum.md R110): the one's complement of the folded sum. -/
def cksum (bytes : List Byte) : Half := BitVec.ofNat 16 (0xFFFF - foldCarry (rawSum bytes) (rawSum bytes))

/-- CKSUM (41_checksum.md R111). -/
def execCksum (bsel : Buf) (s : State) : Result :=
  let a := s.latch.args
  if bufSize s.cfg < a.ckOff.toNat + a.ckLen.toNat then .next (finish .range s)
  else match readBuf s bsel a.ckOff.toNat a.ckLen.toNat with
    | .error e => .fault (.unwrittenByte e)
    | .ok bytes => .next (finish .ok (s.putRes { s.res with cksum := cksum bytes }))

end Sys2Proof.Machine
end

