-- ==== Sys2Proof/Machine/Codec.lean ====
section
/-! DEFINITION. The frame codec: ENCODE and DECODE (42_codec.md, 30_encoding.md R80 to R87). -/

namespace Sys2Proof.Machine

/-- ENCODE's header of a frame in TXF with checksum field `c` (30_encoding.md R80, 42_codec.md R120). -/
def writeHeader (s : State) (seq : Word) (c : Half) (flag : Byte) : State :=
  writeBuf (writeBuf (writeBuf s .txf 0 (be32Bytes seq)) .txf 4 (be16Bytes c)) .txf 6 [flag]

/-- ENCODE (42_codec.md R120). The zeroed checksum field is a step of the computation and is never visible. -/
def execEncode (s : State) : Result :=
  let a := s.latch.args
  if s.cfg.payloadMax < a.len.toNat then .next (finish .len s)
  else if !isFlagCode s.cfg.flags a.flag then .next (finish .flag s)
  else match readBuf (writeHeader s a.seq 0 a.flag) .txf 0 (hdrLen + a.len.toNat) with
    | .error e => .fault (.unwrittenByte e)
    | .ok frame =>
      .next (finish .ok ((writeHeader s a.seq (cksum frame) a.flag).putRes
        { s.res with cksum := cksum frame, txLen := BitVec.ofNat 11 (hdrLen + a.len.toNat) }))

/-- The fields DECODE reports for an accepted frame (42_codec.md R121). -/
def decodedFields (frame : List Byte) (r : Results) : Results :=
  { r with seq := be32 (frame.getD 0 0) (frame.getD 1 0) (frame.getD 2 0) (frame.getD 3 0)
           flag := frame.getD 6 0
           len := BitVec.ofNat 11 (frame.length - hdrLen)
           cksum := cksum frame }

/-- DECODE (42_codec.md R121, R122). -/
def execDecode (s : State) : Result :=
  let a := s.latch.args
  if a.rxLen.toNat < hdrLen then .next (finish .short s)
  else if frameMax s.cfg < a.rxLen.toNat then .next (finish .len s)
  else match readBuf s .rxf 0 a.rxLen.toNat with
    | .error e => .fault (.unwrittenByte e)
    | .ok frame =>
      if cksum frame ≠ 0 then .next (finish .cksumFail (s.putRes { s.res with cksum := cksum frame }))
      else .next (finish .ok ((s.putRes (decodedFields frame s.res)).putStatus
        { s.status with flagKnown := isFlagCode s.cfg.flags (frame.getD 6 0) }))

end Sys2Proof.Machine
end

