-- ==== Sys2Proof/Machine/Sequencer.lean ====
section
/-! DEFINITION. NOP and illegal command words (40_sequencer.md). -/

namespace Sys2Proof.Machine

/-- NOP (40_sequencer.md R104). -/
def execNop (s : State) : Result := .next (finish .ok s)

/-- An accepted illegal word: BADCMD and no other effect (40_sequencer.md R105). -/
def execIllegal (s : State) : Result := .next (finish .badCmd s)

end Sys2Proof.Machine
end

