-- ==== Sys2Proof/Machine/Window.lean ====
section
/-! DEFINITION. The window commands (43_window.md). -/

namespace Sys2Proof.Machine

/-- The window WIN_INIT makes (43_window.md R131). -/
def freshWindow (cap : Word) (chunk : Len) : Window :=
  { cap := cap.setWidth 17, chunk := chunk, lowest := 0, current := 0, edge := cap, hwm := 0, valid := true }

/-- WIN_INIT (43_window.md R131). -/
def execWinInit (s : State) : Result :=
  let a := s.latch.args
  if a.cap = 0 ∨ s.cfg.capMax < a.cap.toNat then .next (finish .cfg s)
  else if a.chunk = 0 ∨ chunkMax s.cfg < a.chunk.toNat then .next (finish .cfg s)
  else .next (finish .ok
    ((s.putWin (freshWindow a.cap a.chunk)).putSlots (clearSlots a.cap.toNat s.slots)))

/-- The slot WIN_ADD leaves: the new bytes over the old data (43_window.md R132). -/
def filledSlot (x : Slot) (seq : Word) (len : Len) (bytes : List Byte) : Slot :=
  { seq := seq, occ := true, dlen := len, data := x.data.writeRange 0 bytes }

/-- WIN_ADD (43_window.md R132). -/
def execWinAdd (src : Buf) (s : State) : Result :=
  let a := s.latch.args
  match windowCheck true s with
  | some rc => .next (finish rc s)
  | none =>
    if s.win.chunk.toNat < a.len.toNat then .next (finish .len s)
    else
      let k := slotIndex s.win a.seq
      match readBuf s src hdrLen a.len.toNat with
      | .error e => .fault (.unwrittenByte e)
      | .ok bytes =>
        .next (finish .ok (setSlot (reportSlot s k a.seq) k (filledSlot (slotAt s k) a.seq a.len bytes)))

/-- WIN_RELEASE (43_window.md R133). -/
def execWinRelease (s : State) : Result :=
  let a := s.latch.args
  match windowCheck true s with
  | some rc => .next (finish rc s)
  | none =>
    let k := slotIndex s.win a.seq
    .next (finish .ok (setSlot (reportSlot s k a.seq) k (clearSlot (slotAt s k))))

/-- WIN_GET (43_window.md R134). -/
def execWinGet (copy : Bool) (s : State) : Result :=
  let a := s.latch.args
  match windowCheck true s with
  | some rc => .next (finish rc s)
  | none =>
    let k := slotIndex s.win a.seq
    let x := slotAt s k
    let r := reportSlot s k a.seq
    if !slotMatches x a.seq then .next (finish .noMatch r)
    else
      let t := r.putRes { r.res with len := x.dlen }
      .next (finish .ok (if copy then writeBuf t .txf hdrLen (slotData k x) else t))

/-- WIN_ACK (43_window.md R136, R141). -/
def execWinAck (s : State) : Result :=
  let n := s.latch.args.seq
  match windowCheck true s with
  | some rc => .next (finish rc s)
  | none =>
    if n.toNat < s.win.lowest.toNat then .next (finish .stale s)
    else if s.win.current.toNat < n.toNat then .next (finish .ahead s)
    else .next (finish .ok (s.putWin { s.win with lowest := n, edge := n + s.win.cap.setWidth 32 }))

/-- WIN_ADVANCE (43_window.md R137). -/
def execWinAdvance (s : State) : Result :=
  match windowCheck false s with
  | some rc => .next (finish rc s)
  | none =>
    if seqMax ≤ s.win.current.toNat then .next (finish .seqRange s)
    else if s.win.edge.toNat ≤ s.win.current.toNat then .next (finish .full s)
    else .next (finish .ok (s.putWin { s.win with current := s.win.current + 1 }))

/-- WIN_OBSERVE (43_window.md R138). -/
def execWinObserve (s : State) : Result :=
  let n := s.latch.args.seq
  match windowCheck true s with
  | some rc => .next (finish rc s)
  | none => .next (finish .ok
      (s.putWin { s.win with hwm := if s.win.hwm.toNat < n.toNat then n else s.win.hwm }))

end Sys2Proof.Machine
end

