-- ==== Sys2Proof/Machine/Dispatch.lean ====
section
/-! DEFINITION. The completion step of a command (40_sequencer.md R103): one meaning per command. -/

namespace Sys2Proof.Machine

def exec (i : Instr) (s : State) : Host.Outcome State Fault Refusal :=
  match i with
  | .nop => Sys2Proof.Machine.execNop s
  | .cksum b => Sys2Proof.Machine.execCksum b s
  | .encode => Sys2Proof.Machine.execEncode s
  | .decode => Sys2Proof.Machine.execDecode s
  | .winInit => Sys2Proof.Machine.execWinInit s
  | .winAdd b => Sys2Proof.Machine.execWinAdd b s
  | .winRelease => Sys2Proof.Machine.execWinRelease s
  | .winGet c => Sys2Proof.Machine.execWinGet c s
  | .winAck => Sys2Proof.Machine.execWinAck s
  | .winAdvance => Sys2Proof.Machine.execWinAdvance s
  | .winObserve => Sys2Proof.Machine.execWinObserve s

end Sys2Proof.Machine
end

