-- ==== Sys2Proof/Machine/Bus.lean ====
section
/-! DEFINITION. The bus target port: register reads and writes (10_state.md) and bus accesses (20_memory.md). -/

namespace Sys2Proof.Machine

/-- PARAM (10_state.md R26). -/
def paramWord (c : Config) : Word := BitVec.ofNat 32 c.capMax ||| BitVec.ofNat 32 c.payloadMax <<< 17

/-- The value a legal read of a register gives (10_state.md R20 to R48). Reserved bits read as zero. -/
def readReg (r : Reg) (s : State) : Word :=
  match r with
  | .id => 0x04640003
  | .ctrl => (BitVec.ofBool s.ie).setWidth 32
  | .status => statusWord s
  | .cmd => 0
  | .param => paramWord s.cfg
  | .argSeq => s.args.seq
  | .argFlag => s.args.flag.setWidth 32
  | .argLen => s.args.len.setWidth 32
  | .argCap => s.args.cap
  | .argChunk => s.args.chunk.setWidth 32
  | .ckOff => s.args.ckOff.setWidth 32
  | .ckLen => s.args.ckLen.setWidth 32
  | .rxLen => s.args.rxLen.setWidth 32
  | .resSeq => s.res.seq
  | .resFlag => s.res.flag.setWidth 32
  | .resLen => s.res.len.setWidth 32
  | .resCksum => s.res.cksum.setWidth 32
  | .txLen => s.res.txLen.setWidth 32
  | .resSlot => s.res.slot.setWidth 32
  | .resSlotSeq => s.res.slotSeq
  | .winCap => s.win.cap.setWidth 32
  | .winChunk => s.win.chunk.setWidth 32
  | .winLowest => s.win.lowest
  | .winCurrent => s.win.current
  | .winEdge => s.win.edge
  | .winHwm => s.win.hwm
  | .winStat => (BitVec.ofBool s.win.valid).setWidth 32

/-- A write to CTRL: IE, then the soft reset if SRST is written 1 (10_state.md R23, 70_reset_and_hazards.md R171). -/
def writeCtrl (v : Word) (s : State) : State :=
  if v.getLsbD 1 then resetBlock (s.putIe (v.getLsbD 0)) else s.putIe (v.getLsbD 0)

/-- A write to STATUS: clears the W1C bits written as 1 (10_state.md R24, log 15). -/
def writeStatus (v : Word) (s : State) : State :=
  s.putStatus { s.status with done := s.status.done && !v.getLsbD 1
                              overrun := s.status.overrun && !v.getLsbD 2
                              busErr := s.status.busErr && !v.getLsbD 3 }

/-- A write to a register: the state it leaves, or `none` for a read-only register (10_state.md R20). An argument
register takes its named field bits alone. -/
def writeReg (r : Reg) (v : Word) (s : State) : Option State :=
  match r with
  | .ctrl => some (writeCtrl v s)
  | .status => some (writeStatus v s)
  | .cmd => some (submit v s)
  | .argSeq => some (s.putArgs { s.args with seq := v })
  | .argFlag => some (s.putArgs { s.args with flag := v.setWidth 8 })
  | .argLen => some (s.putArgs { s.args with len := v.setWidth 11 })
  | .argCap => some (s.putArgs { s.args with cap := v })
  | .argChunk => some (s.putArgs { s.args with chunk := v.setWidth 11 })
  | .ckOff => some (s.putArgs { s.args with ckOff := v.setWidth 11 })
  | .ckLen => some (s.putArgs { s.args with ckLen := v.setWidth 11 })
  | .rxLen => some (s.putArgs { s.args with rxLen := v.setWidth 11 })
  | .id | .param => none
  | .resSeq | .resFlag | .resLen | .resCksum | .txLen | .resSlot | .resSlotSeq => none
  | .winCap | .winChunk | .winLowest | .winCurrent | .winEdge | .winHwm | .winStat => none

/-- An access to a register: 32-bit only (20_memory.md R63). -/
def accessReg (r : Reg) (a : Access) (s : State) : Result :=
  if a.size ≠ .word then raiseBusError a s
  else if a.write then
    match writeReg r a.wdata s with
    | none => raiseBusError a s
    | some t => .next (respondWrite t)
  else .next (respondRead (readReg r s) s)

/-- An 8-bit access to `B[off]` (20_memory.md R67). -/
def accessByte (b : Buf) (off : Nat) (a : Access) (s : State) : Result :=
  if a.write then .next (respondWrite (writeBuf s b off [a.wdata.setWidth 8]))
  else match readBuf s b off 1 with
    | .error e => .fault (.unwrittenByte e)
    | .ok bytes => .next (respondRead ((bytes.getD 0 0).setWidth 32) s)

/-- A 32-bit access at `B[off]`, big-endian lanes (20_memory.md R67). -/
def accessWord (b : Buf) (off : Nat) (a : Access) (s : State) : Result :=
  if a.write then .next (respondWrite (writeBuf s b off (be32Bytes a.wdata)))
  else match readBuf s b off 4 with
    | .error e => .fault (.unwrittenByte e)
    | .ok bytes =>
      .next (respondRead (be32 (bytes.getD 0 0) (bytes.getD 1 0) (bytes.getD 2 0) (bytes.getD 3 0)) s)

/-- An access to a frame buffer (20_memory.md R63, R65). -/
def accessBuf (b : Buf) (off : Nat) (a : Access) (s : State) : Result :=
  if isBusy s then raiseBusError a s
  else match a.size with
    | .byte => accessByte b off a s
    | .word => if off % 4 = 0 then accessWord b off a s else raiseBusError a s
    | .half => raiseBusError a s
    | .reserved => raiseBusError a s

/-- One bus access (20_memory.md R60 to R69). -/
def busAccess (a : Access) (s : State) : Result :=
  match regionOf s.cfg a.addr.toNat with
  | .reg r => accessReg r a s
  | .buf b off => accessBuf b off a s
  | .unmapped => raiseBusError a s

end Sys2Proof.Machine
end

