-- ==== Sys2Proof/Machine/HostAgent.lean ====
section
/-! DEFINITION. The host agent: the lines of a host program (30_encoding.md R95), its pseudo-instructions (R96), and the
host's turn. -/

namespace Sys2Proof.Machine

/-- `wr32 off, v`. -/
def wr32 (off : BusOffset) (v : Word) : HostLine := .access { write := true, size := .word, addr := off, wdata := v }

/-- The access of `rd32 off`. -/
def read32 (off : BusOffset) : Access := { write := false, size := .word, addr := off, wdata := 0 }

/-- `rd32 off`. -/
def rd32 (off : BusOffset) : HostLine := .access (read32 off)

/-- `wr8 off, v`: `v` is `v[7:0]`. -/
def wr8 (off : BusOffset) (v : Byte) : HostLine :=
  .access { write := true, size := .byte, addr := off, wdata := v.setWidth 32 }

/-- `rd8 off`. -/
def rd8 (off : BusOffset) : HostLine := .access { write := false, size := .byte, addr := off, wdata := 0 }

/-- `wr32 REG, v`: a register name stands for its offset. -/
def wrReg (r : Reg) (v : Word) : HostLine := wr32 (regOffset r) v

/-- `cmd MNEMONIC[.opt]`. -/
def cmd (i : Instr) : HostLine := wrReg .cmd (encode i)

/-- `TXF+i` and `RXF+i`. -/
def bufOffset (b : Buf) (i : Nat) : BusOffset := BitVec.ofNat 16 (bufAddr b i)

/-- `cksum b, off, len` (R96). -/
def pseudoCksum (b : Buf) (off len : Word) : List HostLine :=
  [wrReg .ckOff off, wrReg .ckLen len, cmd (.cksum b), .wait]

/-- `encode seq, flag, len` (R96). -/
def pseudoEncode (seq flag len : Word) : List HostLine :=
  [wrReg .argSeq seq, wrReg .argFlag flag, wrReg .argLen len, cmd .encode, .wait]

/-- `decode len` (R96). -/
def pseudoDecode (len : Word) : List HostLine := [wrReg .rxLen len, cmd .decode, .wait]

/-- `winit cap, chunk` (R96). -/
def pseudoWinit (cap chunk : Word) : List HostLine :=
  [wrReg .argCap cap, wrReg .argChunk chunk, cmd .winInit, .wait]

/-- `wadd seq, len, b` (R96). -/
def pseudoWadd (seq len : Word) (b : Buf) : List HostLine :=
  [wrReg .argSeq seq, wrReg .argLen len, cmd (.winAdd b), .wait]

/-- `wrel seq` (R96). -/
def pseudoWrel (seq : Word) : List HostLine := [wrReg .argSeq seq, cmd .winRelease, .wait]

/-- `wget seq[, copy]` (R96). -/
def pseudoWget (seq : Word) (copy : Bool) : List HostLine := [wrReg .argSeq seq, cmd (.winGet copy), .wait]

/-- `wack n` (R96). -/
def pseudoWack (n : Word) : List HostLine := [wrReg .argSeq n, cmd .winAck, .wait]

/-- `wadv` (R96). -/
def pseudoWadv : List HostLine := [cmd .winAdvance, .wait]

/-- `wobs seq` (R96). -/
def pseudoWobs (seq : Word) : List HostLine := [wrReg .argSeq seq, cmd .winObserve, .wait]

/-- `wrbytes base, b0, b1, ...` (R96). -/
def pseudoWrbytes (base : BusOffset) : List Byte → List HostLine
  | [] => []
  | b :: bs => wr8 base b :: pseudoWrbytes (base + 1) bs

/-- An access of a host line: the host addresses `BASE + off`, and the block sees the offset from BASE
(30_encoding.md R95, 60_exceptions.md R164). -/
def hostAccess (a : Access) (s : State) : Result :=
  busAccess { a with addr := portOffset s.cfg (hostAddress s.cfg a.addr) } s

/-- The host's turn: it performs its next line (30_encoding.md R95). A `wait` stays the next line until STATUS.BUSY
reads 0; a failed `expect` stops the run (log 16). With no line left the host does nothing. -/
def hostTurn (s : State) : Result :=
  match s.program with
  | [] => .next s
  | .access a :: rest => hostAccess a (s.putProgram rest)
  | .wait :: rest =>
    match hostAccess (read32 (regOffset .status)) s with
    | .next t => .next (if t.bus.rdata.getLsbD 0 then t else t.putProgram rest)
    | .fault f => .fault f
    | .refused r => .refused r
  | .expect off v :: rest =>
    match hostAccess (read32 off) (s.putProgram rest) with
    | .next t => if t.bus.rdata = v then .next t else .fault (.expectFailed off t.bus.rdata)
    | .fault f => .fault f
    | .refused r => .refused r

end Sys2Proof.Machine
end

