-- ==== Sys2Proof/Machine/Engine.lean ====
section
/-! DEFINITION. The command engine's turn (40_sequencer.md R103, R105, R106). -/

namespace Sys2Proof.Machine

/-- The engine's turn: while busy it completes the latched command in one step, an illegal word with BADCMD; while idle
it does nothing. -/
def engineTurn (s : State) : Result :=
  if isBusy s then
    match decode s.latch.w with
    | .ok i => exec i s
    | .error _ => execIllegal s
  else .next s

/-- The turn nobody is scheduled for: a pending command completes, else the host goes on (log 4). -/
def defaultTurn (s : State) : Result :=
  if isBusy s then engineTurn s else hostTurn s

end Sys2Proof.Machine
end

