-- ==== Sys2Proof/Machine/Step.lean ====
section
/-! DEFINITION. One step of the machine: a turn of one agent, or a hardware reset (00_scope.md R6, R7). -/

namespace Sys2Proof.Machine

/-- The step: the first of the schedule moves; with no schedule left, `defaultTurn` (log 4). -/
def step (s : State) : Host.Outcome State Fault Refusal :=
  match s.schedule with
  | [] => defaultTurn s
  | .host :: rest => hostTurn (s.putSchedule rest)
  | .engine :: rest => engineTurn (s.putSchedule rest)
  | .hardReset :: rest => .next (resetBlock (s.putSchedule rest))

/-- `s` with the command word `w` accepted as 40_sequencer.md R101 accepts it, and the engine next to move: the very
next step runs the command (log 5). -/
def State.withFetchWord (s : State) (nbits w : Nat) : State :=
  (accept (BitVec.ofNat 32 (w % 2 ^ nbits)) s).putSchedule
    (match s.schedule with
     | [] => []
     | m :: rest => .engine :: m :: rest)

end Sys2Proof.Machine
end

