-- ==== Sys2Proof/Safety.lean ====
section
/-! DEFINITION. What claims about the block are stated with: what a command may change, what an access may do, the
invariant of a safe run, and the checksum's laws as the spec writes them. -/

namespace Sys2Proof.Machine

/-- Byte `i` of a frame buffer, `none` while nothing has written it (00_scope.md R11, R13). -/
abbrev State.byte? (s : State) (b : Buf) (i : Nat) : Option Byte := Memory.read? s.mem (bufAddr b i)

/-- `B[off..off+n)` holds exactly the `n` bytes of the list. -/
abbrev HoldsBytes (s : State) (b : Buf) (off : Nat) (bytes : List Byte) : Prop :=
  ∀ i, (h : i < bytes.length) → s.byte? b (off + i) = some bytes[i]

/-- Every byte of memory reads as before. -/
def SameMemory (s t : State) : Prop := ∀ a, Memory.read? t.mem a = Memory.read? s.mem a

/-- Every byte outside the `n` bytes from `lo` up reads as before. -/
def SameMemoryOutside (lo n : Nat) (s t : State) : Prop :=
  ∀ a, ¬(lo ≤ a ∧ a < lo + n) → Memory.read? t.mem a = Memory.read? s.mem a

/-- The state after a command that does nothing but complete with `rc`: steps (2) to (4) of 40_sequencer.md R103. -/
def onlyCompleted (rc : RC) (s : State) : State :=
  { s with status := { s.status with rc := rc, done := true }, engine := .idle }

/-- What no command changes: parameters, CTRL, argument registers, latch, sticky STATUS bits, and what lies outside
the block. -/
structure CommandFrame (s t : State) : Prop where
  cfg      : t.cfg = s.cfg
  ie       : t.ie = s.ie
  args     : t.args = s.args
  latch    : t.latch = s.latch
  overrun  : t.status.overrun = s.status.overrun
  busErr   : t.status.busErr = s.status.busErr
  bus      : t.bus = s.bus
  program  : t.program = s.program
  schedule : t.schedule = s.schedule

/-- A command has completed with result code `rc` (40_sequencer.md R103), within its frame. -/
structure CompletedWith (rc : RC) (s t : State) : Prop where
  rc    : t.status.rc = rc
  idle  : t.engine = .idle
  done  : t.status.done = true
  frame : CommandFrame s t

/-- RES_SLOT and RES_SLOT_SEQ report `SLOT[k]` of `s` for sequence number `seq`, and no other result register changes
(10_state.md R40, R41). -/
structure SlotReported (s t : State) (k : Nat) (seq : Word) : Prop where
  idx     : (t.res.slot.extractLsb' 0 16).toNat = k % 65536
  occ     : t.res.slot.getLsbD 16 = (slotAt s k).occ
  isMatch : t.res.slot.getLsbD 17 = true ↔ (slotAt s k).occ = true ∧ (slotAt s k).seq = seq
  slotSeq : t.res.slotSeq = (slotAt s k).seq
  seq     : t.res.seq = s.res.seq
  flag    : t.res.flag = s.res.flag
  cksum   : t.res.cksum = s.res.cksum
  txLen   : t.res.txLen = s.res.txLen

/-- Byte `b` is one of the nine codes of FLAG_CODE (30_encoding.md R86). -/
def IsFlagByte (c : Config) (b : Byte) : Prop := ∃ f : Flag, codeOf c.flags f = b

/-- The first two checks of 43_window.md R130 for a window command that reads ARG_SEQ, with no other effect. -/
def PreconditionsRefuse (i : Instr) (s : State) : Prop :=
  (s.win.valid = false → exec i s = .next (onlyCompleted .noInit s)) ∧
  (s.win.valid = true → seqMax < s.latch.args.seq.toNat → exec i s = .next (onlyCompleted .seqRange s))

/-- The registers a host may write (10_state.md R20): RW, WO, and STATUS with its W1C bits. -/
def regWritable : Reg → Bool
  | .ctrl | .status | .cmd => true
  | .argSeq | .argFlag | .argLen | .argCap | .argChunk | .ckOff | .ckLen | .rxLen => true
  | .id | .param => false
  | .resSeq | .resFlag | .resLen | .resCksum | .txLen | .resSlot | .resSlotSeq => false
  | .winCap | .winChunk | .winLowest | .winCurrent | .winEdge | .winHwm | .winStat => false

/-- The named field bits of a register; every other bit is reserved (10_state.md R20 to R48). CTRL.SRST always reads
0, and CMD keeps no value. -/
def fieldMask : Reg → Word
  | .id | .argSeq | .argCap | .resSeq | .resSlotSeq => 0xFFFFFFFF
  | .winLowest | .winCurrent | .winEdge | .winHwm => 0xFFFFFFFF
  | .ctrl | .winStat => 0x00000001
  | .status => 0x00010F0F
  | .cmd => 0x00000000
  | .param => 0x0FFFFFFF
  | .argFlag | .resFlag => 0x000000FF
  | .argLen | .argChunk | .ckOff | .ckLen | .rxLen | .resLen | .txLen | .winChunk => 0x000007FF
  | .resCksum => 0x0000FFFF
  | .resSlot => 0x0003FFFF
  | .winCap => 0x0001FFFF

/-- The argument registers (10_state.md R27 to R34). -/
def isArgReg : Reg → Bool
  | .argSeq | .argFlag | .argLen | .argCap | .argChunk | .ckOff | .ckLen | .rxLen => true
  | .id | .ctrl | .status | .cmd | .param => false
  | .resSeq | .resFlag | .resLen | .resCksum | .txLen | .resSlot | .resSlotSeq => false
  | .winCap | .winChunk | .winLowest | .winCurrent | .winEdge | .winHwm | .winStat => false

/-- A 32-bit write of `v` to a register. -/
def regWrite (r : Reg) (v : Word) : Access := { write := true, size := .word, addr := regOffset r, wdata := v }

/-- An 8-bit access to `B[i]`. -/
def byteAccess (write : Bool) (b : Buf) (i : Nat) (v : Word) : Access :=
  { write := write, size := .byte, addr := bufOffset b i, wdata := v }

/-- A 32-bit access at `B[i]`. -/
def wordAccess (write : Bool) (b : Buf) (i : Nat) (v : Word) : Access :=
  { write := write, size := .word, addr := bufOffset b i, wdata := v }

/-- The legal accesses of 20_memory.md R63 and R65, with the offsets of 10_state.md R20 and 20_memory.md R60. -/
def LegalAccess (s : State) (a : Access) : Prop :=
  (a.size = .word ∧ ∃ r, a.addr = regOffset r ∧ (a.write = true → regWritable r = true)) ∨
  (s.engine = .idle ∧ ∃ b i, i < bufSize s.cfg ∧ a.addr.toNat = bufAddr b i ∧
    (a.size = .byte ∨ (a.size = .word ∧ i % 4 = 0)))

/-- The state a bus error leaves (20_memory.md R64): only STATUS.BUSERR, and the error response at the port. -/
def afterBusError (a : Access) (s : State) : State :=
  { s with status := { s.status with busErr := true }
           bus := { err := true, rdata := if a.write then s.bus.rdata else 0 } }

/-- The value of a register at reset (10_state.md R20). -/
def resetValue (c : Config) (r : Reg) : Word :=
  if r = .id then 0x04640003
  else if r = .param then BitVec.ofNat 32 (c.capMax + c.payloadMax * 2 ^ 17)
  else 0

/-- `t` is what a reset makes of `s` (70_reset_and_hazards.md R170). -/
structure ResetState (s t : State) : Prop where
  regs    : ∀ r, readReg r t = resetValue s.cfg r
  idle    : t.engine = .idle
  irq     : irq t = false
  mem     : ∀ a, Memory.read? t.mem a = none
  cfg     : t.cfg = s.cfg
  program : t.program = s.program

/-- The engine is the next to move, and its turn starts from `u`: it is scheduled, or no schedule is left, when a pending
command completes first by the model's choice (log 4). -/
def EngineMoves (s u : State) : Prop :=
  (s.schedule = [] ∧ u = s) ∨ ∃ rest, s.schedule = .engine :: rest ∧ u = { s with schedule := rest }

/-- The host is the next to move, and its turn starts from `u`: it is scheduled, or no schedule is left and no command
is pending, by the model's choice (log 4). -/
def HostMoves (s u : State) : Prop :=
  (s.schedule = [] ∧ s.engine = .idle ∧ u = s) ∨ ∃ rest, s.schedule = .host :: rest ∧ u = { s with schedule := rest }

/-- What 10_state.md R53(e) says of `SLOT[k]`, and that an occupied slot's data has been written (R49). -/
structure SlotInv (w : Window) (k : Nat) (x : Slot) : Prop where
  empty    : x.occ = false → x.seq = 0xFFFFFFFF ∧ x.dlen = 0
  occupied : x.occ = true → x.seq.toNat ≤ seqMax ∧ x.seq.toNat % w.cap.toNat = k ∧ x.dlen.toNat ≤ w.chunk.toNat ∧
    ∀ i, i < x.dlen.toNat → (Memory.read? x.data i).isSome = true

/-- The invariants of a valid window: 10_state.md R53(a), (b), (c), (e), and the ranges of R42 and R43. -/
structure WindowInv (s : State) : Prop where
  cap     : 1 ≤ s.win.cap.toNat ∧ s.win.cap.toNat ≤ s.cfg.capMax
  chunk   : 1 ≤ s.win.chunk.toNat ∧ s.win.chunk.toNat ≤ s.cfg.payloadMax
  ordered : s.win.lowest.toNat ≤ s.win.current.toNat ∧ s.win.current.toNat ≤ s.win.edge.toNat
  edge    : s.win.edge.toNat = s.win.lowest.toNat + s.win.cap.toNat
  range   : s.win.current.toNat ≤ seqMax ∧ s.win.hwm.toNat ≤ seqMax
  slots   : ∀ k, k < s.win.cap.toNat → SlotInv s.win k (slotAt s k)

/-- A bus offset inside a frame buffer (20_memory.md R60). -/
abbrev InBuffer (c : Config) (a : Nat) : Prop :=
  (0x1000 ≤ a ∧ a < 0x1000 + bufSize c) ∨ (0x2000 ≤ a ∧ a < 0x2000 + bufSize c)

/-- The invariant of the machine. A run from reset meets it in every state. -/
structure StateInv (s : State) : Prop where
  cfg       : s.cfg.wf = true
  memory    : s.mem.wf
  mapped    : ∀ c ∈ s.mem, InBuffer s.cfg c.1
  slotCount : s.slots.length = s.cfg.capMax
  slotData  : ∀ x ∈ s.slots, Memory.wf x.data ∧ ∀ c ∈ x.data, c.1 < chunkMax s.cfg
  busy      : s.engine = .busy → s.status.done = false
  noWindow  : s.win.valid = false → s.win = Window.reset
  window    : s.win.valid = true → WindowInv s

/-- Two slots look alike to every command: 10_state.md R49 says no more of a slot can be observed. -/
def SlotsLookAlike (x y : Slot) : Prop :=
  x.seq = y.seq ∧ x.occ = y.occ ∧ x.dlen = y.dlen ∧
  (x.occ = true → ∀ i, i < x.dlen.toNat → Memory.read? x.data i = Memory.read? y.data i)

/-- Two states differ at most in what of the slot array cannot be observed (10_state.md R49). -/
structure LookAlike (s t : State) : Prop where
  rest   : t = { s with slots := t.slots }
  length : t.slots.length = s.slots.length
  slots  : s.win.valid = true → ∀ k, k < s.win.cap.toNat → SlotsLookAlike (slotAt s k) (slotAt t k)

/-- Two outcomes that cannot be told apart: the same kind of stop, and states that look alike. -/
def OutcomesLookAlike : Result → Result → Prop
  | .next s, .next t => LookAlike s t
  | .fault (.busError a s), .fault (.busError b t) => a = b ∧ LookAlike s t
  | .fault (.unwrittenByte a), .fault (.unwrittenByte b) => a = b
  | .fault (.expectFailed a v), .fault (.expectFailed b w) => a = b ∧ v = w
  | .refused a, .refused b => a = b
  | _, _ => False

/-- The raw sum S of 41_checksum.md R110 as the spec writes it: big-endian words, the missing low byte of an odd
length 0. -/
def wordSum (bytes : List Byte) : Nat :=
  ∑ i ∈ Finset.range ((bytes.length + 1) / 2), ((bytes.getD (2 * i) 0).toNat * 256 + (bytes.getD (2 * i + 1) 0).toNat)

/-- The closed form of the fold (41_checksum.md R110). -/
def foldClosed (S : Nat) : Nat := if S = 0 then 0 else 1 + (S - 1) % 0xFFFF

/-- The sum with bytes paired little-endian, an odd trailing byte paired with a zero following byte
(41_checksum.md R112). -/
def littleEndianSum : List Byte → Nat
  | [] => 0
  | [lo] => lo.toNat
  | lo :: hi :: rest => lo.toNat + hi.toNat * 256 + littleEndianSum rest

/-- The checksum of a host-order implementation (41_checksum.md R112). -/
def littleEndianCksum (bytes : List Byte) : Half :=
  BitVec.ofNat 16 (0xFFFF - foldCarry (littleEndianSum bytes) (littleEndianSum bytes))

/-- One byte of a byte string with bit `k` flipped. -/
def flipBit (bytes : List Byte) (i k : Nat) : List Byte :=
  bytes.set i (bytes.getD i 0 ^^^ (1#8 <<< k))

end Sys2Proof.Machine
end

