-- ==== Sys2Proof/Certificates/Slice0/Obligations.lean ====
section
/-! DEFINITION. The statements for the provers. Each docstring names the rule of spec/ it formalises. -/

open Sys2Proof Sys2Proof.Machine

/-! ## Encoding -/

/-- 30_encoding.md R90 to R92: a word decodes to a command exactly when it is that command's word, so no bit of an
encoding is dropped and every command has one word. -/
def Obligations.DecodeAndEncodeAgree : Prop :=
  ∀ (w : Word) (i : Instr), i.wf = true → (decode w = .ok i ↔ w = encode i)

/-- 30_encoding.md R91, R92 and 43_window.md R131 to R138: words written out from the spec decode to their commands.
-/
def Obligations.SpecWordsDecodeToTheirCommands : Prop :=
  decode 0x00000000 = .ok .nop ∧ decode 0x00000101 = .ok (.cksum .rxf) ∧ decode 0x00000002 = .ok .encode ∧
  decode 0x00000003 = .ok .decode ∧ decode 0x00000111 = .ok (.winAdd .rxf) ∧ decode 0x00000013 = .ok (.winGet false) ∧
  decode 0x00000113 = .ok (.winGet true) ∧ decode 0x00000015 = .ok .winAdvance

/-- 30_encoding.md R93 with 40_sequencer.md R105: a word with RSV not 0, an unassigned OP or a reserved OPT bit set is
no command, every other word is one, and an accepted illegal word completes with BADCMD and changes nothing else. With
no schedule left the pending word completes next: the model's choice (log 4). -/
def Obligations.IllegalWordsFinishBadCmd : Prop :=
  ∀ s u : State, s.engine = .busy → EngineMoves s u →
    let w := s.latch.w
    let op := w.extractLsb' 0 8
    let opt := w.extractLsb' 8 8
    let illegal := w.extractLsb' 16 16 ≠ 0 ∨
      op ∉ ([0x00, 0x01, 0x02, 0x03, 0x10, 0x11, 0x12, 0x13, 0x14, 0x15, 0x16] : List Byte) ∨
      (op ∈ ([0x01, 0x11, 0x13] : List Byte) ∧ opt &&& 0xFE ≠ 0) ∨
      (op ∉ ([0x01, 0x11, 0x13] : List Byte) ∧ opt ≠ 0)
    (illegal → step s = .next (onlyCompleted .badCmd u)) ∧ (¬ illegal → ∃ i, decode w = .ok i)

/-! ## Sequencing -/

/-- 40_sequencer.md R103: when the engine moves and the latched word is a command, the step is that command's
completion and nothing else. With no schedule left a pending command completes first, and a turn of an idle engine
changes nothing: the model's choice (log 4). -/
def Obligations.StepRunsTheLatchedCommand : Prop :=
  (∀ (s u : State) (i : Instr), s.engine = .busy → EngineMoves s u → i.wf = true → decode s.latch.w = .ok i →
    step s = exec i u) ∧
  ∀ (s : State) (rest : List Mover), s.engine = .idle → s.schedule = .engine :: rest →
    step s = .next { s with schedule := rest }

/-- 30_encoding.md R95 and 00_scope.md R7: on the host's turn the step performs the host's next line, whatever BASE. An
access line performs its access on the state with that line taken off. A `wait` line reads STATUS and stays while BUSY
is 1. An `expect` line performs its read, and stops where the value differs (log 16). A host with no line left does
nothing (log 5). With no schedule left and no command pending the host moves: the model's choice (log 4). -/
def Obligations.StepPerformsTheHostsLine : Prop :=
  ∀ s u : State, HostMoves s u →
    (u.program = [] → step s = .next u) ∧
    (∀ a rest, u.program = .access a :: rest → step s = busAccess a { u with program := rest }) ∧
    (∀ rest, u.program = .wait :: rest →
      let v := { u with bus := { err := false, rdata := readReg .status u } }
      (u.engine = .busy → step s = .next v) ∧ (u.engine = .idle → step s = .next { v with program := rest })) ∧
    (∀ off v rest, u.program = .expect off v :: rest →
      (∀ t, busAccess (read32 off) { u with program := rest } = .next t →
        (t.bus.rdata = v → step s = .next t) ∧
        (t.bus.rdata ≠ v → step s = .fault (.expectFailed off t.bus.rdata))) ∧
      (∀ f, busAccess (read32 off) { u with program := rest } = .fault f → step s = .fault f))

/-- 40_sequencer.md R101: a CMD write while idle latches the word and every argument, sets BUSY, clears DONE, and
keeps everything else. -/
def Obligations.CmdWriteWhileIdleIsAccepted : Prop :=
  ∀ (s : State) (w : Word), s.engine = .idle →
    busAccess (regWrite .cmd w) s = .next
      { s with engine := .busy, status := { s.status with done := false }, latch := { w := w, args := s.args },
               bus := { s.bus with err := false } }

/-- 40_sequencer.md R102: a CMD write while busy only sets OVERRUN. -/
def Obligations.CmdWriteWhileBusyOnlySetsOverrun : Prop :=
  ∀ (s : State) (w : Word), s.engine = .busy →
    busAccess (regWrite .cmd w) s = .next
      { s with status := { s.status with overrun := true }, bus := { s.bus with err := false } }

/-- 40_sequencer.md R103: whatever a command does, its completion leaves the engine idle, STATUS with BUSY 0, DONE 1
and the command's rc, irq equal to CTRL.IE, and its frame as it was. -/
def Obligations.EveryCompletionSetsDoneAndIdle : Prop :=
  ∀ (i : Instr) (s t : State), exec i s = .next t →
    CompletedWith t.status.rc s t ∧ irq t = s.ie ∧
    (readReg .status t).getLsbD 0 = false ∧ (readReg .status t).getLsbD 1 = true ∧
    (readReg .status t).extractLsb' 8 4 = rcCode t.status.rc

/-- 40_sequencer.md R107: a command with an rc other than OK has no effect beyond its completion, but that DECODE with
CKSUM_FAIL writes RES_CKSUM, and WIN_GET with NOMATCH writes RES_SLOT and RES_SLOT_SEQ. -/
def Obligations.FailedCommandsChangeNothingElse : Prop :=
  ∀ (i : Instr) (s t : State), exec i s = .next t → t.status.rc ≠ .ok →
    t = onlyCompleted t.status.rc s ∨
    (i = .decode ∧ t.status.rc = .cksumFail ∧
      t = onlyCompleted .cksumFail { s with res := { s.res with cksum := t.res.cksum } }) ∨
    (∃ c, i = .winGet c ∧ t.status.rc = .noMatch ∧
      t = onlyCompleted .noMatch { s with res := { s.res with slot := t.res.slot, slotSeq := t.res.slotSeq } })

/-- 40_sequencer.md R106: a pending command is never stuck. When the engine moves, it completes, or the model stops on
an unwritten buffer byte (00_scope.md R13). -/
def Obligations.PendingCommandsComplete : Prop :=
  ∀ s u : State, s.engine = .busy → EngineMoves s u →
    (∃ t, step s = .next t ∧ t.engine = .idle ∧ t.status.done = true ∧ t.program = s.program) ∨
    (∃ b i, step s = .fault (.unwrittenByte (bufAddr b i)) ∧ s.byte? b i = none)

/-- 30_encoding.md R95 with 40_sequencer.md R106: a `wait` line before which a command is pending ends. Once the engine
has completed the command and the host moves, it reads BUSY 0 and goes on to the line after it. Who moves while no
schedule is left is the model's choice (log 4). -/
def Obligations.WaitEndsAfterCompletion : Prop :=
  ∀ (s u t w : State) (rest : List HostLine), s.engine = .busy → EngineMoves s u → s.program = .wait :: rest →
    step s = .next t → HostMoves t w →
    ∃ v, step t = .next v ∧ v.program = rest ∧ v.engine = .idle ∧ v.bus.rdata.getLsbD 0 = false

/-- 20_memory.md R68 and R71(a): while a command is pending, a host access other than a soft reset leaves the engine,
the latch, the buffers, the slots, the window and result registers, RC and FLAG_KNOWN as they were. -/
def Obligations.HostCannotDisturbPendingCommand : Prop :=
  ∀ (a : Access) (s t : State), s.engine = .busy → ¬(a.addr = regOffset .ctrl ∧ a.write = true ∧ a.wdata.getLsbD 1 = true) →
    busAccess a s = .next t →
    t.engine = .busy ∧ t.latch = s.latch ∧ t.mem = s.mem ∧ t.slots = s.slots ∧ t.win = s.win ∧ t.res = s.res ∧
    t.status.rc = s.status.rc ∧ t.status.flagKnown = s.status.flagKnown

/-- 60_exceptions.md R154 with 40_sequencer.md R101: a write to an argument register, or to CTRL without SRST, and a
completion give the same state in either order. -/
def Obligations.ArgumentWritesCommuteWithCompletion : Prop :=
  ∀ (i : Instr) (r : Reg) (v : Word) (s t : State),
    (isArgReg r = true ∨ (r = .ctrl ∧ v.getLsbD 1 = false)) → exec i s = .next t →
    ∃ u z, busAccess (regWrite r v) s = .next u ∧ exec i u = .next z ∧ busAccess (regWrite r v) t = .next z

/-- The model's reading of 60_exceptions.md R154 (log 14): a write of 1 to STATUS.DONE at a completion is one more
access whose outcome depends on the order. Before it, DONE ends 1; after it, 0. -/
def Obligations.DoneClearAtCompletionDependsOnOrder : Prop :=
  ∀ (s : State), s.engine = .busy → s.status.done = false →
    ∃ u z y, busAccess (regWrite .status 0x2) s = .next u ∧ exec .nop u = .next z ∧ z.status.done = true ∧
      exec .nop s = .next y ∧ ∃ x, busAccess (regWrite .status 0x2) y = .next x ∧ x.status.done = false

/-! ## The bus -/

/-- 20_memory.md R62 to R64: exactly the accesses that are not legal end in a bus error, which sets STATUS.BUSERR,
gives an error response with read data 0, and changes nothing else. -/
def Obligations.ExactlyIllegalAccessesAreBusErrors : Prop :=
  ∀ (s : State) (a : Access), s.cfg.wf = true →
    (¬ LegalAccess s a → busAccess a s = .fault (.busError a.addr (afterBusError a s))) ∧
    (LegalAccess s a → ∀ b t, busAccess a s ≠ .fault (.busError b t))

/-- 20_memory.md R65: while busy every access to TXF or RXF is a bus error, whichever buffer, and every register
access that is legal while idle is legal and answers. -/
def Obligations.BufferAccessWhileBusyIsBusError : Prop :=
  ∀ (s : State) (a : Access), s.cfg.wf = true → s.engine = .busy →
    (InBuffer s.cfg a.addr.toNat → busAccess a s = .fault (.busError a.addr (afterBusError a s))) ∧
    (∀ r, a.addr = regOffset r → a.size = .word → (a.write = true → regWritable r = true) →
      ∃ t, busAccess a s = .next t)

/-- 20_memory.md R69 with R67 and 10_state.md R20: a legal read changes nothing but the response at the port, and reads
the same again. A 32-bit read of any register, in any state, answers the register's value. -/
def Obligations.ReadsHaveNoSideEffect : Prop :=
  (∀ (s t : State) (a : Access), a.write = false → busAccess a s = .next t →
    t = { s with bus := t.bus } ∧ t.bus.err = false ∧ busAccess a t = .next t) ∧
  ∀ (s : State) (r : Reg), ∃ t, busAccess (read32 (regOffset r)) s = .next t ∧ t.bus.rdata = readReg r s ∧
    t = { s with bus := { err := false, rdata := readReg r s } }

/-- 10_state.md R22, R23, R25 to R48: what a 32-bit bus read of each register answers, as a number; STATUS has its own
statement. -/
def Obligations.RegisterReadsAnswerTheirFields : Prop :=
  ∀ s : State, s.cfg.wf = true →
    let reads (r : Reg) (n : Nat) : Prop :=
      ∃ t, busAccess (read32 (regOffset r)) s = .next t ∧ t.bus.err = false ∧ t.bus.rdata.toNat = n
    (reads .id 0x04640003 ∧ reads .ctrl s.ie.toNat ∧ reads .cmd 0 ∧
      reads .param (s.cfg.capMax + s.cfg.payloadMax * 2 ^ 17)) ∧
    (reads .argSeq s.args.seq.toNat ∧ reads .argFlag s.args.flag.toNat ∧ reads .argLen s.args.len.toNat ∧
      reads .argCap s.args.cap.toNat ∧ reads .argChunk s.args.chunk.toNat ∧ reads .ckOff s.args.ckOff.toNat ∧
      reads .ckLen s.args.ckLen.toNat ∧ reads .rxLen s.args.rxLen.toNat) ∧
    (reads .resSeq s.res.seq.toNat ∧ reads .resFlag s.res.flag.toNat ∧ reads .resLen s.res.len.toNat ∧
      reads .resCksum s.res.cksum.toNat ∧ reads .txLen s.res.txLen.toNat ∧ reads .resSlot s.res.slot.toNat ∧
      reads .resSlotSeq s.res.slotSeq.toNat) ∧
    (reads .winCap s.win.cap.toNat ∧ reads .winChunk s.win.chunk.toNat ∧ reads .winLowest s.win.lowest.toNat ∧
      reads .winCurrent s.win.current.toNat ∧ reads .winEdge s.win.edge.toNat ∧ reads .winHwm s.win.hwm.toNat ∧
      reads .winStat s.win.valid.toNat)

/-- 10_state.md R23 with 20_memory.md R69: a write to CTRL with SRST 0 sets IE to bit 0 and changes nothing else. -/
def Obligations.CtrlWriteSetsOnlyEnable : Prop :=
  ∀ (s : State) (v : Word), v.getLsbD 1 = false →
    ∃ t, busAccess (regWrite .ctrl v) s = .next t ∧ readReg .ctrl t = v &&& 1 ∧
      (∀ q, q ≠ .ctrl → readReg q t = readReg q s) ∧ SameMemory s t ∧
      t = { s with ie := v.getLsbD 0, bus := { s.bus with err := false } }

/-- 20_memory.md R67, R70: a 32-bit write at a buffer offset stores its bytes most significant first and touches no
other byte; then each 8-bit read gives its byte and the 32-bit read gives the word back. -/
def Obligations.WordWritesAreReadBackBigEndian : Prop :=
  ∀ (s : State) (b : Buf) (i : Nat) (v : Word), s.cfg.wf = true → s.engine = .idle → i < bufSize s.cfg → i % 4 = 0 →
    ∃ t, busAccess (wordAccess true b i v) s = .next t ∧ SameMemoryOutside (bufAddr b i) 4 s t ∧
      t = { s with mem := t.mem, bus := { s.bus with err := false } } ∧
      (∃ u, busAccess (wordAccess false b i 0) t = .next u ∧ u.bus.rdata = v) ∧
      ∀ k, k < 4 → ∃ u, busAccess (byteAccess false b (i + k) 0) t = .next u ∧
        u.bus.rdata = (v.extractLsb' (24 - 8 * k) 8).setWidth 32

/-- 20_memory.md R67: an 8-bit write stores bits 7:0 of its data and touches no other byte, and the 8-bit read gives
them back zero-extended. -/
def Obligations.ByteWritesAreReadBack : Prop :=
  ∀ (s : State) (b : Buf) (i : Nat) (v : Word), s.cfg.wf = true → s.engine = .idle → i < bufSize s.cfg →
    ∃ t, busAccess (byteAccess true b i v) s = .next t ∧ SameMemoryOutside (bufAddr b i) 1 s t ∧
      t = { s with mem := t.mem, bus := { s.bus with err := false } } ∧
      ∃ u, busAccess (byteAccess false b i 0) t = .next u ∧ u.bus.rdata = v &&& 0xFF

/-- 20_memory.md R67: a 32-bit write has exactly the effect of four 8-bit writes of its bytes. -/
def Obligations.WordWriteIsFourByteWrites : Prop :=
  ∀ (s : State) (b : Buf) (i : Nat) (v : Word), s.cfg.wf = true → s.engine = .idle → i < bufSize s.cfg → i % 4 = 0 →
    ∃ t0 t1 t2 t, busAccess (byteAccess true b i (v >>> 24)) s = .next t0 ∧
      busAccess (byteAccess true b (i + 1) (v >>> 16)) t0 = .next t1 ∧
      busAccess (byteAccess true b (i + 2) (v >>> 8)) t1 = .next t2 ∧
      busAccess (byteAccess true b (i + 3) v) t2 = .next t ∧
      busAccess (wordAccess true b i v) s = .next t

/-- 10_state.md R20, R27 to R34: a write to an argument register sets its named field bits, drops the others, and
changes no other register and no byte of memory. -/
def Obligations.ArgumentRegistersKeepTheirFieldBits : Prop :=
  ∀ (s : State) (r : Reg) (v : Word), isArgReg r = true →
    ∃ t, busAccess (regWrite r v) s = .next t ∧ readReg r t = v &&& fieldMask r ∧
      (∀ q, q ≠ r → readReg q t = readReg q s) ∧ SameMemory s t ∧ t.slots = s.slots ∧ t.latch = s.latch ∧
      t.engine = s.engine

/-- 10_state.md R24: a write to STATUS clears exactly the W1C bits it writes as 1, and changes nothing else. -/
def Obligations.StatusWritesOnlyClearWrittenBits : Prop :=
  ∀ (s : State) (v : Word),
    ∃ t, busAccess (regWrite .status v) s = .next t ∧ readReg .status t = readReg .status s &&& ~~~(v &&& 0xE) ∧
      t = { s with status := t.status, bus := { s.bus with err := false } } ∧ t.status.rc = s.status.rc

/-- 10_state.md R24: where each bit of STATUS stands. 60_exceptions.md R151: the number of each result code. -/
def Obligations.StatusBitsStandWhereTheSpecPutsThem : Prop :=
  ∀ s : State, (readReg .status s).getLsbD 0 = isBusy s ∧ (readReg .status s).getLsbD 1 = s.status.done ∧
    (readReg .status s).getLsbD 2 = s.status.overrun ∧ (readReg .status s).getLsbD 3 = s.status.busErr ∧
    (readReg .status s).getLsbD 16 = s.status.flagKnown ∧
    (readReg .status s).extractLsb' 8 4 = rcCode s.status.rc ∧
    let n := ((readReg .status s).extractLsb' 8 4).toNat
    n ≤ 13 ∧ (s.status.rc = .ok ↔ n = 0) ∧ (s.status.rc = .cksumFail ↔ n = 1) ∧ (s.status.rc = .short ↔ n = 2) ∧
    (s.status.rc = .len ↔ n = 3) ∧ (s.status.rc = .range ↔ n = 4) ∧ (s.status.rc = .flag ↔ n = 5) ∧
    (s.status.rc = .noInit ↔ n = 6) ∧ (s.status.rc = .cfg ↔ n = 7) ∧ (s.status.rc = .seqRange ↔ n = 8) ∧
    (s.status.rc = .noMatch ↔ n = 9) ∧ (s.status.rc = .stale ↔ n = 10) ∧ (s.status.rc = .ahead ↔ n = 11) ∧
    (s.status.rc = .full ↔ n = 12) ∧ (s.status.rc = .badCmd ↔ n = 13)

/-- 10_state.md R20: every bit not named as a field reads as zero, in every register and every state with legal
parameters. -/
def Obligations.ReservedBitsReadZero : Prop :=
  ∀ (s : State) (r : Reg), s.cfg.wf = true → readReg r s &&& ~~~ fieldMask r = 0

/-- 10_state.md R22, R26 and 00_scope.md R8: no step changes the parameters, so ID and PARAM are constant. -/
def Obligations.ParametersAreConstant : Prop :=
  ∀ s t : State, step s = .next t →
    t.cfg = s.cfg ∧ readReg .id t = 0x04640003 ∧ readReg .param t = readReg .param s

/-- 00_scope.md R13: whichever host read or command reads a frame-buffer byte nothing has written, the model stops
with the fault "unwritten buffer byte", at such a byte. -/
def Obligations.ReadingUnwrittenBytesFaults : Prop :=
  ∀ (s : State), s.cfg.wf = true →
    let a := s.latch.args
    let faults (b : Buf) (lo n : Nat) (o : Result) : Prop :=
      (∃ i, i < n ∧ s.byte? b (lo + i) = none) →
      ∃ i, i < n ∧ s.byte? b (lo + i) = none ∧ o = .fault (.unwrittenByte (bufAddr b (lo + i)))
    (∀ b i, s.engine = .idle → i < bufSize s.cfg → faults b i 1 (busAccess (byteAccess false b i 0) s)) ∧
    (∀ b i, s.engine = .idle → i < bufSize s.cfg → i % 4 = 0 → faults b i 4 (busAccess (wordAccess false b i 0) s)) ∧
    (∀ b, a.ckOff.toNat + a.ckLen.toNat ≤ bufSize s.cfg → faults b a.ckOff.toNat a.ckLen.toNat (exec (.cksum b) s)) ∧
    (a.len.toNat ≤ s.cfg.payloadMax → IsFlagByte s.cfg a.flag → faults .txf 7 a.len.toNat (exec .encode s)) ∧
    (7 ≤ a.rxLen.toNat → a.rxLen.toNat ≤ 7 + s.cfg.payloadMax → faults .rxf 0 a.rxLen.toNat (exec .decode s)) ∧
    (∀ b, s.win.valid = true → a.seq.toNat ≤ seqMax → a.len.toNat ≤ s.win.chunk.toNat →
      faults b 7 a.len.toNat (exec (.winAdd b) s))

/-! ## Reset and interrupt -/

/-- 70_reset_and_hazards.md R170: hardware reset gives every register its reset value, the engine IDLE, irq 0, and
leaves every buffer byte unwritten, whatever the state and a command in progress; at the default parameters ID and
PARAM are as the table has them. -/
def Obligations.HardwareResetGivesResetValues : Prop :=
  (∀ (s : State) (rest : List Mover), s.cfg.wf = true → s.schedule = .hardReset :: rest →
    ∃ t, step s = .next t ∧ ResetState s t ∧ t.schedule = rest) ∧
  readReg .id State.reset = 0x04640003 ∧ readReg .param State.reset = 0x0AF00040 ∧
  ResetState State.reset State.reset

/-- 70_reset_and_hazards.md R171: a write to CTRL with SRST 1 completes without error and is exactly a reset: a
pending command is abandoned, CTRL.IE is 0 whatever bit 0 of the write, the buffers count as unwritten. -/
def Obligations.SoftResetIsAReset : Prop :=
  ∀ (s : State) (v : Word), s.cfg.wf = true → v.getLsbD 1 = true →
    ∃ t, busAccess (regWrite .ctrl v) s = .next t ∧ ResetState s t ∧ t.ie = false ∧ t.schedule = s.schedule ∧
      ∃ u, step { s with schedule := .hardReset :: s.schedule, bus := { s.bus with err := false } } = .next u ∧ t = u

/-- The state after reset meets the invariant, for all legal parameters. The slots' reset values it uses are the
model's choice (log 7). -/
def Obligations.ResetMeetsTheInvariant : Prop :=
  (∀ c : Config, c.wf = true → StateInv (State.resetWith c)) ∧ StateInv State.reset

/-- 60_exceptions.md R155: the ways to deassert irq, and that enabling IE while DONE is 1 asserts it at once while an
overrun or a bus error does not. -/
def Obligations.IrqFollowsDoneAndEnable : Prop :=
  ∀ (s : State) (v : Word),
    (v.getLsbD 1 = true → ∃ t, busAccess (regWrite .status v) s = .next t ∧ irq t = false) ∧
    (s.engine = .idle → ∃ t, busAccess (regWrite .cmd v) s = .next t ∧ irq t = false) ∧
    (s.engine = .busy → ∃ t, busAccess (regWrite .cmd v) s = .next t ∧ irq t = irq s) ∧
    (v.getLsbD 1 = false → v.getLsbD 0 = false → ∃ t, busAccess (regWrite .ctrl v) s = .next t ∧ irq t = false) ∧
    (v.getLsbD 1 = false → v.getLsbD 0 = true → s.status.done = true →
      ∃ t, busAccess (regWrite .ctrl v) s = .next t ∧ irq t = true) ∧
    (∀ a b t, busAccess a s = .fault (.busError b t) → irq t = irq s)

/-- 60_exceptions.md R155: the only source of irq is a command completion. A step that raises it is a completion, or a
write of IE = 1 while a completion stands. -/
def Obligations.IrqRisesOnlyAtCompletionOrEnable : Prop :=
  ∀ s t : State, step s = .next t → irq s = false → irq t = true →
    (s.engine = .busy ∧ t.engine = .idle ∧ t.status.done = true ∧ s.ie = true) ∨
    (s.ie = false ∧ t.ie = true ∧ s.status.done = true)

/-! ## The commands -/

/-- 40_sequencer.md R104: NOP completes with OK and changes nothing else; its word is 0; submitted while busy it is an
overrun. -/
def Obligations.NopOnlyCompletes : Prop :=
  encode .nop = 0x00000000 ∧
  ∀ s : State, exec .nop s = .next { s with status := { s.status with rc := .ok, done := true }, engine := .idle } ∧
    (s.engine = .busy → ∃ t, busAccess (regWrite .cmd (encode .nop)) s = .next t ∧ t.status.overrun = true)

/-- 41_checksum.md R111: CKSUM of a range inside the buffer leaves its checksum in RES_CKSUM; a range that passes the
end gives RANGE and no other effect. -/
def Obligations.CksumReportsTheRangeChecksum : Prop :=
  encode (.cksum .txf) = 0x00000001 ∧ encode (.cksum .rxf) = 0x00000101 ∧
  ∀ (b : Buf) (s : State),
    let a := s.latch.args
    (bufSize s.cfg < a.ckOff.toNat + a.ckLen.toNat → exec (.cksum b) s = .next (onlyCompleted .range s)) ∧
    (∀ bytes : List Byte, a.ckOff.toNat + a.ckLen.toNat ≤ bufSize s.cfg → bytes.length = a.ckLen.toNat →
      HoldsBytes s b a.ckOff.toNat bytes →
      ∃ t, exec (.cksum b) s = .next t ∧ CompletedWith .ok s t ∧ t.status.flagKnown = s.status.flagKnown ∧
        t.res = { s.res with cksum := cksum bytes } ∧ t.win = s.win ∧ t.slots = s.slots ∧ SameMemory s t)

/-- 42_codec.md R120: ENCODE builds the frame of 30_encoding.md R80 at TXF[0..7+len), with the checksum of the whole
frame computed over a zeroed checksum field (log 12); LEN and then FLAG refuse it with no other effect. -/
def Obligations.EncodeBuildsTheFrame : Prop :=
  encode .encode = 0x00000002 ∧
  ∀ s : State, s.cfg.wf = true →
    let a := s.latch.args
    (s.cfg.payloadMax < a.len.toNat → exec .encode s = .next (onlyCompleted .len s)) ∧
    (a.len.toNat ≤ s.cfg.payloadMax → ¬ IsFlagByte s.cfg a.flag → exec .encode s = .next (onlyCompleted .flag s)) ∧
    (∀ payload : List Byte, a.len.toNat ≤ s.cfg.payloadMax → IsFlagByte s.cfg a.flag →
      payload.length = a.len.toNat → HoldsBytes s .txf 7 payload →
      let c := cksum (be32Bytes a.seq ++ [0, 0] ++ [a.flag] ++ payload)
      ∃ t, exec .encode s = .next t ∧ CompletedWith .ok s t ∧ t.status.flagKnown = s.status.flagKnown ∧
        HoldsBytes t .txf 0 (be32Bytes a.seq ++ be16Bytes c ++ [a.flag] ++ payload) ∧
        SameMemoryOutside (bufAddr .txf 0) 7 s t ∧
        t.res = { s.res with cksum := c, txLen := t.res.txLen } ∧ t.res.txLen.toNat = 7 + a.len.toNat ∧
        t.win = s.win ∧ t.slots = s.slots)

/-- 42_codec.md R121: DECODE refuses a short frame and then a long one, computes the checksum over the received bytes,
drops a frame whose checksum is not zero, and reports the fields of one that verifies. It never changes memory. -/
def Obligations.DecodeAcceptsFramesThatVerify : Prop :=
  encode .decode = 0x00000003 ∧
  ∀ s : State, s.cfg.wf = true →
    let a := s.latch.args
    (a.rxLen.toNat < 7 → exec .decode s = .next (onlyCompleted .short s)) ∧
    (7 + s.cfg.payloadMax < a.rxLen.toNat → exec .decode s = .next (onlyCompleted .len s)) ∧
    (∀ frame : List Byte, 7 ≤ a.rxLen.toNat → a.rxLen.toNat ≤ 7 + s.cfg.payloadMax → frame.length = a.rxLen.toNat →
      HoldsBytes s .rxf 0 frame →
      (cksum frame ≠ 0 →
        exec .decode s = .next (onlyCompleted .cksumFail { s with res := { s.res with cksum := cksum frame } })) ∧
      (cksum frame = 0 →
        ∃ t, exec .decode s = .next t ∧ CompletedWith .ok s t ∧
          (t.status.flagKnown = true ↔ IsFlagByte s.cfg t.res.flag) ∧
          be32Bytes t.res.seq = frame.take 4 ∧ frame[6]? = some t.res.flag ∧
          t.res.len.toNat = a.rxLen.toNat - 7 ∧ t.res.cksum = 0 ∧ t.res.txLen = s.res.txLen ∧
          t.res.slot = s.res.slot ∧ t.res.slotSeq = s.res.slotSeq ∧ t.win = s.win ∧ t.slots = s.slots ∧
          SameMemory s t))

/-- 42_codec.md R122: after a DECODE with OK, FLAG_KNOWN is 1 exactly when RES_FLAG is a flag code; no other command,
and no DECODE with another rc, writes it; reset clears it. -/
def Obligations.FlagKnownIsWrittenOnlyByDecode : Prop :=
  (∀ (i : Instr) (s t : State), exec i s = .next t →
    (i = .decode → t.status.rc = .ok → (t.status.flagKnown = true ↔ IsFlagByte t.cfg t.res.flag)) ∧
    (i ≠ .decode ∨ t.status.rc ≠ .ok → t.status.flagKnown = s.status.flagKnown)) ∧
  ∀ s : State, (resetBlock s).status.flagKnown = false

/-- 43_window.md R130: every window command but WIN_INIT finishes NOINIT while VALID is 0, and then those that read
ARG_SEQ finish SEQ_RANGE above SEQ_MAX, with no other effect. -/
def Obligations.WindowPreconditionsComeFirst : Prop :=
  ∀ s : State,
    (∀ b, PreconditionsRefuse (.winAdd b) s) ∧ PreconditionsRefuse .winRelease s ∧
    (∀ c, PreconditionsRefuse (.winGet c) s) ∧ PreconditionsRefuse .winAck s ∧ PreconditionsRefuse .winObserve s ∧
    (s.win.valid = false → exec .winAdvance s = .next (onlyCompleted .noInit s))

/-- 43_window.md R131: WIN_INIT with a capacity in 1 to CAP_MAX and a chunk size in 1 to CHUNK_MAX makes an empty
window of that capacity; with any other it finishes CFG and leaves everything else. -/
def Obligations.WinInitMakesAnEmptyWindow : Prop :=
  encode .winInit = 0x00000010 ∧
  ∀ s : State, s.cfg.wf = true →
    let a := s.latch.args
    ((a.cap.toNat = 0 ∨ s.cfg.capMax < a.cap.toNat ∨ a.chunk.toNat = 0 ∨ s.cfg.payloadMax < a.chunk.toNat) →
      exec .winInit s = .next (onlyCompleted .cfg s)) ∧
    (1 ≤ a.cap.toNat → a.cap.toNat ≤ s.cfg.capMax → 1 ≤ a.chunk.toNat → a.chunk.toNat ≤ s.cfg.payloadMax →
      ∃ t, exec .winInit s = .next t ∧ CompletedWith .ok s t ∧ t.status.flagKnown = s.status.flagKnown ∧
        t.win.cap.toNat = a.cap.toNat ∧ t.win.chunk = a.chunk ∧ t.win.lowest = 0 ∧ t.win.current = 0 ∧
        t.win.edge = a.cap ∧ t.win.hwm = 0 ∧ t.win.valid = true ∧ t.slots.length = s.slots.length ∧
        (∀ k, k < a.cap.toNat → k < s.slots.length →
          slotAt t k = { slotAt s k with seq := 0xFFFFFFFF, occ := false, dlen := 0 }) ∧
        (∀ k, a.cap.toNat ≤ k → slotAt t k = slotAt s k) ∧ t.res = s.res ∧ SameMemory s t)

/-- 43_window.md R132, R135, R140: WIN_ADD stores the bytes in slot `seq mod WIN_CAP`, whoever held it, and reports
the occupant it displaces; LEN when they exceed the chunk size; the preconditions of R130 first. -/
def Obligations.WinAddStoresInTheSlotOfItsSequence : Prop :=
  encode (.winAdd .txf) = 0x00000011 ∧ encode (.winAdd .rxf) = 0x00000111 ∧
  ∀ (b : Buf) (s : State),
    let a := s.latch.args
    let k := a.seq.toNat % s.win.cap.toNat
    PreconditionsRefuse (.winAdd b) s ∧
    (s.win.valid = true → a.seq.toNat ≤ seqMax →
      (s.win.chunk.toNat < a.len.toNat → exec (.winAdd b) s = .next (onlyCompleted .len s)) ∧
      (∀ bytes : List Byte, a.len.toNat ≤ s.win.chunk.toNat → bytes.length = a.len.toNat → HoldsBytes s b 7 bytes →
        ∃ t x, exec (.winAdd b) s = .next t ∧ CompletedWith .ok s t ∧ t.status.flagKnown = s.status.flagKnown ∧
          SlotReported s t k a.seq ∧ t.res.len = s.res.len ∧ t.slots = s.slots.set k x ∧
          x.seq = a.seq ∧ x.occ = true ∧ x.dlen = a.len ∧
          (∀ i, (h : i < bytes.length) → Memory.read? x.data i = some bytes[i]) ∧
          (∀ i, bytes.length ≤ i → Memory.read? x.data i = Memory.read? (slotAt s k).data i) ∧
          t.win = s.win ∧ SameMemory s t))

/-- 43_window.md R133, R135: WIN_RELEASE empties slot `seq mod WIN_CAP` whoever holds it, and reports the occupant. -/
def Obligations.WinReleaseEmptiesTheSlot : Prop :=
  encode .winRelease = 0x00000012 ∧
  ∀ s : State,
    let a := s.latch.args
    let k := a.seq.toNat % s.win.cap.toNat
    PreconditionsRefuse .winRelease s ∧
    (s.win.valid = true → a.seq.toNat ≤ seqMax →
      ∃ t, exec .winRelease s = .next t ∧ CompletedWith .ok s t ∧ t.status.flagKnown = s.status.flagKnown ∧
        SlotReported s t k a.seq ∧ t.res.len = s.res.len ∧
        t.slots = s.slots.set k { slotAt s k with seq := 0xFFFFFFFF, occ := false, dlen := 0 } ∧
        t.win = s.win ∧ SameMemory s t)

/-- 43_window.md R134, R135: WIN_GET reports slot `seq mod WIN_CAP` and never changes it. If it holds exactly `seq`,
RES_LEN is its length and COPY copies its data to TXF[7..7+dlen); otherwise NOMATCH, with the report alone. -/
def Obligations.WinGetReportsAndCopiesTheSlot : Prop :=
  encode (.winGet false) = 0x00000013 ∧ encode (.winGet true) = 0x00000113 ∧
  ∀ (c : Bool) (s : State),
    let a := s.latch.args
    let k := a.seq.toNat % s.win.cap.toNat
    let x := slotAt s k
    PreconditionsRefuse (.winGet c) s ∧
    (s.win.valid = true → a.seq.toNat ≤ seqMax →
      (¬(x.occ = true ∧ x.seq = a.seq) →
        ∃ t, exec (.winGet c) s = .next t ∧ CompletedWith .noMatch s t ∧ t.status.flagKnown = s.status.flagKnown ∧
          SlotReported s t k a.seq ∧ t.res.len = s.res.len ∧ t.win = s.win ∧ t.slots = s.slots ∧ SameMemory s t) ∧
      (∀ bytes : List Byte, x.occ = true → x.seq = a.seq → bytes.length = x.dlen.toNat →
        (∀ i, (h : i < bytes.length) → Memory.read? x.data i = some bytes[i]) →
        ∃ t, exec (.winGet c) s = .next t ∧ CompletedWith .ok s t ∧ t.status.flagKnown = s.status.flagKnown ∧
          SlotReported s t k a.seq ∧ t.res.len = x.dlen ∧ t.win = s.win ∧ t.slots = s.slots ∧
          (c = false → SameMemory s t) ∧
          (c = true → HoldsBytes t .txf 7 bytes ∧ SameMemoryOutside (bufAddr .txf 7) bytes.length s t)))

/-- 43_window.md R136, R141: WIN_ACK moves lowest to `n` and the edge to `n + WIN_CAP` when lowest ≤ n ≤ current,
releases no slot, and finishes STALE below and AHEAD above with no other effect. -/
def Obligations.WinAckMovesLowestAndEdge : Prop :=
  encode .winAck = 0x00000014 ∧
  ∀ s : State,
    let n := s.latch.args.seq
    PreconditionsRefuse .winAck s ∧
    (s.win.valid = true → n.toNat ≤ seqMax →
      (n.toNat < s.win.lowest.toNat → exec .winAck s = .next (onlyCompleted .stale s)) ∧
      (s.win.lowest.toNat ≤ n.toNat → s.win.current.toNat < n.toNat →
        exec .winAck s = .next (onlyCompleted .ahead s)) ∧
      (s.win.lowest.toNat ≤ n.toNat → n.toNat ≤ s.win.current.toNat →
        ∃ t, exec .winAck s = .next t ∧ CompletedWith .ok s t ∧ t.status.flagKnown = s.status.flagKnown ∧
          t.win = { s.win with lowest := n, edge := t.win.edge } ∧ t.win.edge.toNat = n.toNat + s.win.cap.toNat ∧
          t.slots = s.slots ∧ t.res = s.res ∧ SameMemory s t))

/-- 43_window.md R137: WIN_ADVANCE adds one to current while it is below SEQ_MAX and below the edge; else SEQ_RANGE,
then FULL, with no other effect. -/
def Obligations.WinAdvanceStepsCurrent : Prop :=
  encode .winAdvance = 0x00000015 ∧
  ∀ s : State,
    (s.win.valid = false → exec .winAdvance s = .next (onlyCompleted .noInit s)) ∧
    (s.win.valid = true →
      (seqMax ≤ s.win.current.toNat → exec .winAdvance s = .next (onlyCompleted .seqRange s)) ∧
      (s.win.current.toNat < seqMax → s.win.edge.toNat ≤ s.win.current.toNat →
        exec .winAdvance s = .next (onlyCompleted .full s)) ∧
      (s.win.current.toNat < seqMax → s.win.current.toNat < s.win.edge.toNat →
        ∃ t, exec .winAdvance s = .next t ∧ CompletedWith .ok s t ∧ t.status.flagKnown = s.status.flagKnown ∧
          t.win = { s.win with current := t.win.current } ∧ t.win.current.toNat = s.win.current.toNat + 1 ∧
          t.slots = s.slots ∧ t.res = s.res ∧ SameMemory s t))

/-- 43_window.md R138: WIN_OBSERVE raises the high-water mark to the greater of it and `seq`. -/
def Obligations.WinObserveRaisesTheMark : Prop :=
  encode .winObserve = 0x00000016 ∧
  ∀ s : State,
    let n := s.latch.args.seq
    PreconditionsRefuse .winObserve s ∧
    (s.win.valid = true → n.toNat ≤ seqMax →
      ∃ t, exec .winObserve s = .next t ∧ CompletedWith .ok s t ∧ t.status.flagKnown = s.status.flagKnown ∧
        t.win = { s.win with hwm := t.win.hwm } ∧ t.win.hwm.toNat = max s.win.hwm.toNat n.toNat ∧
        t.slots = s.slots ∧ t.res = s.res ∧ SameMemory s t)

/-- From 43_window.md, section 1 ("derived: from rules R131 to R138"): which commands write which window register and
the slots; every other command leaves them. -/
def Obligations.WindowStateChangesOnlyByItsCommands : Prop :=
  ∀ (i : Instr) (s t : State), exec i s = .next t → i ≠ .winInit →
    (t.win.cap = s.win.cap ∧ t.win.chunk = s.win.chunk ∧ t.win.valid = s.win.valid) ∧
    (i ≠ .winAdvance → t.win.current = s.win.current) ∧
    (i = .winAdvance → t.win.current = s.win.current ∨ t.win.current.toNat = s.win.current.toNat + 1) ∧
    (i ≠ .winObserve → t.win.hwm = s.win.hwm) ∧
    (i ≠ .winAck → t.win.lowest = s.win.lowest ∧ t.win.edge = s.win.edge) ∧
    (i ≠ .winAdd .txf → i ≠ .winAdd .rxf → i ≠ .winRelease → t.slots = s.slots)

/-! ## The checksum -/

/-- The closed form in 41_checksum.md, section 1: the checksum is the complement of the fold of the big-endian word
sum; and the sum of a range of at most 1408 bytes stays below 2^26. The arithmetic is what R110 marks "from general
knowledge, not in source" (log 12). -/
def Obligations.ChecksumIsTheClosedForm : Prop :=
  ∀ bytes : List Byte, (cksum bytes).toNat = 0xFFFF - foldClosed (wordSum bytes) ∧
    (bytes.length ≤ 1408 → wordSum bytes < 2 ^ 26)

/-- The byte-swap property in 41_checksum.md, section 1, "from general knowledge, not in source" (log 12): pairing
bytes little-endian and storing the result little-endian gives the same two bytes as pairing and storing big-endian.
-/
def Obligations.ChecksumBytesDoNotDependOnByteOrder : Prop :=
  ∀ bytes : List Byte, be16Bytes (cksum bytes) = (be16Bytes (littleEndianCksum bytes)).reverse

/-- The verification law of 41_checksum.md, section 3 ("derived: from rule R110 and 42_codec.md rule R120", log 12): a
frame with its checksum put in its zeroed checksum field verifies. -/
def Obligations.StoredChecksumVerifies : Prop :=
  ∀ f : List Byte, 6 ≤ f.length → f[4]? = some 0 → f[5]? = some 0 →
    cksum (f.take 4 ++ be16Bytes (cksum f) ++ f.drop 6) = 0

/-- A law of 41_checksum.md, section 3 ("derived: from rule R110", log 12): the checksum is 0 exactly when the raw sum
is positive and a multiple of 0xFFFF; the folded sum is 0 only when every byte is; so a range of zero bytes has
checksum 0xFFFF. -/
def Obligations.ZeroChecksumMeansMultipleOfFFFF : Prop :=
  ∀ bytes : List Byte,
    (cksum bytes = 0 ↔ 0 < wordSum bytes ∧ wordSum bytes % 0xFFFF = 0) ∧
    (foldClosed (wordSum bytes) = 0 ↔ ∀ b ∈ bytes, b = 0) ∧ ((∀ b ∈ bytes, b = 0) → cksum bytes = 0xFFFF)

/-- A law of 41_checksum.md, section 3 ("derived: from rules R110 and R114", log 12): flipping any one bit of a frame
that verifies makes its checksum nonzero, and DECODE of the flipped frame reports CKSUM_FAIL. -/
def Obligations.SingleBitErrorsAreDetected : Prop :=
  ∀ (f : List Byte) (i k : Nat), cksum f = 0 → i < f.length → k < 8 →
    cksum (flipBit f i k) ≠ 0 ∧
    ∀ s : State, s.cfg.wf = true → s.latch.args.rxLen.toNat = f.length → 7 ≤ f.length →
      f.length ≤ 7 + s.cfg.payloadMax → HoldsBytes s .rxf 0 (flipBit f i k) →
      ∃ t, exec .decode s = .next t ∧ t.status.rc = .cksumFail

/-- A law of 41_checksum.md, section 3: a change to a verified frame that keeps the raw sum positive and a multiple of
0xFFFF goes undetected, among them (a) a swap of two words at even offsets, (b) 0x0000 to 0xFFFF in a frame with
another word that is not zero or back, (c) changes of two words that cancel, (d) zero bytes appended or removed at the
end. The spec infers this from R110 ("derived: from rule R110"), whose arithmetic it takes from general knowledge (log
12). -/
def Obligations.SomeErrorsAreNotDetected : Prop :=
  (∀ f : List Byte, 0 < wordSum f → wordSum f % 0xFFFF = 0 → cksum f = 0) ∧
  (∀ (p m q : List Byte) (a b c d : Byte), p.length % 2 = 0 → m.length % 2 = 0 →
    cksum (p ++ [a, b] ++ m ++ [c, d] ++ q) = 0 → cksum (p ++ [c, d] ++ m ++ [a, b] ++ q) = 0) ∧
  (∀ p q : List Byte, p.length % 2 = 0 → 0 < wordSum (p ++ [0, 0] ++ q) →
    (cksum (p ++ [0, 0] ++ q) = 0 ↔ cksum (p ++ [0xFF, 0xFF] ++ q) = 0)) ∧
  (∀ (p m q : List Byte) (a b c d a' b' c' d' : Byte), p.length % 2 = 0 → m.length % 2 = 0 →
    a.toNat * 256 + b.toNat + (c.toNat * 256 + d.toNat) = a'.toNat * 256 + b'.toNat + (c'.toNat * 256 + d'.toNat) →
    cksum (p ++ [a, b] ++ m ++ [c, d] ++ q) = 0 → cksum (p ++ [a', b'] ++ m ++ [c', d'] ++ q) = 0) ∧
  (∀ (f : List Byte) (n : Nat), cksum (f ++ List.replicate n 0) = cksum f)

/-- The codec round trip of 42_codec.md, section 2 ("derived: from rules R120, R121 and 41_checksum.md rule R113"): if
ENCODE finishes OK, and later RXF[0..7+p) holds what TXF[0..7+p) held then and DECODE runs with RX_LEN = 7 + p, that
DECODE finishes OK with the same sequence number, flag and length, and FLAG_KNOWN 1; and RXF[7..7+p) is the payload.
-/
def Obligations.CodecRoundTrip : Prop :=
  ∀ s t u : State, s.cfg.wf = true → u.cfg = s.cfg → exec .encode s = .next t → t.status.rc = .ok →
    u.latch.args.rxLen.toNat = 7 + s.latch.args.len.toNat →
    (∀ i, i < 7 + s.latch.args.len.toNat → u.byte? .rxf i = t.byte? .txf i) →
    ∃ v, exec .decode u = .next v ∧ CompletedWith .ok u v ∧ v.res.seq = s.latch.args.seq ∧
      v.res.flag = s.latch.args.flag ∧ v.res.len = s.latch.args.len ∧ v.status.flagKnown = true ∧ v.res.cksum = 0 ∧
      ∀ i, i < s.latch.args.len.toNat → v.byte? .rxf (7 + i) = s.byte? .txf (7 + i)

/-! ## The machine -/

/-- The window invariants (a), (b), (c), (e) of 10_state.md, section 6 ("derived: from 43_window.md rules R131, R132,
..."), and the structural invariants of this model: every step keeps them, from every state that meets them. -/
def Obligations.StepKeepsTheInvariant : Prop :=
  ∀ s t : State, StateInv s → step s = .next t → StateInv t

/-- 20_memory.md R64: the state a bus error leaves meets the invariant too, so a run that answers the error goes on
from a good state. -/
def Obligations.BusErrorKeepsTheInvariant : Prop :=
  ∀ (s t : State) (a : BusOffset), StateInv s → step s = .fault (.busError a t) →
    StateInv t ∧ t.status.busErr = true ∧ t.win = s.win ∧ t.slots = s.slots ∧ t.mem = s.mem ∧ t.res = s.res

/-- Window invariant (d) of 10_state.md, section 6 ("derived: ..."): current and the high-water mark never decrease,
but by a WIN_INIT that completes, which makes them 0, or by a reset. -/
def Obligations.CurrentAndMarkNeverDecrease : Prop :=
  ∀ s t : State, step s = .next t →
    (s.win.current.toNat ≤ t.win.current.toNat ∧ s.win.hwm.toNat ≤ t.win.hwm.toNat) ∨
    (s.engine = .busy ∧ decode s.latch.w = .ok .winInit ∧ t.engine = .idle ∧ t.status.done = true ∧
      t.status.rc = .ok ∧ t.win.current = 0 ∧ t.win.hwm = 0) ∨
    (t.win = Window.reset ∧ t.engine = .idle ∧ t.status = Status.reset)

/-- 10_state.md R49 with 43_window.md R135: what the spec says of the slot array cannot be observed. Two states that
differ only there (slots at WIN_CAP and above, data of unoccupied slots, data at and above dlen, every slot while no
window is valid) make steps that differ only there. -/
def Obligations.HiddenSlotContentsAreNotObservable : Prop :=
  ∀ s s' : State, StateInv s → LookAlike s s' → OutcomesLookAlike (step s) (step s')
end

