-- ==== Sys2Proof/Laws/State.lean ====
section
/-! SUPPORT. One lemma per field per update of State, each true by rfl, so that no proof unfolds a record update. -/

namespace Sys2Proof.Machine

section PutMem
variable (s : State) (x : Memory)
@[simp] theorem State.putMem_cfg : (s.putMem x).cfg = s.cfg := rfl
@[simp] theorem State.putMem_ie : (s.putMem x).ie = s.ie := rfl
@[simp] theorem State.putMem_status : (s.putMem x).status = s.status := rfl
@[simp] theorem State.putMem_engine : (s.putMem x).engine = s.engine := rfl
@[simp] theorem State.putMem_latch : (s.putMem x).latch = s.latch := rfl
@[simp] theorem State.putMem_args : (s.putMem x).args = s.args := rfl
@[simp] theorem State.putMem_res : (s.putMem x).res = s.res := rfl
@[simp] theorem State.putMem_win : (s.putMem x).win = s.win := rfl
@[simp] theorem State.putMem_slots : (s.putMem x).slots = s.slots := rfl
@[simp] theorem State.putMem_mem : (s.putMem x).mem = x := rfl
@[simp] theorem State.putMem_bus : (s.putMem x).bus = s.bus := rfl
@[simp] theorem State.putMem_program : (s.putMem x).program = s.program := rfl
@[simp] theorem State.putMem_schedule : (s.putMem x).schedule = s.schedule := rfl
end PutMem

section PutRes
variable (s : State) (x : Results)
@[simp] theorem State.putRes_cfg : (s.putRes x).cfg = s.cfg := rfl
@[simp] theorem State.putRes_ie : (s.putRes x).ie = s.ie := rfl
@[simp] theorem State.putRes_status : (s.putRes x).status = s.status := rfl
@[simp] theorem State.putRes_engine : (s.putRes x).engine = s.engine := rfl
@[simp] theorem State.putRes_latch : (s.putRes x).latch = s.latch := rfl
@[simp] theorem State.putRes_args : (s.putRes x).args = s.args := rfl
@[simp] theorem State.putRes_res : (s.putRes x).res = x := rfl
@[simp] theorem State.putRes_win : (s.putRes x).win = s.win := rfl
@[simp] theorem State.putRes_slots : (s.putRes x).slots = s.slots := rfl
@[simp] theorem State.putRes_mem : (s.putRes x).mem = s.mem := rfl
@[simp] theorem State.putRes_bus : (s.putRes x).bus = s.bus := rfl
@[simp] theorem State.putRes_program : (s.putRes x).program = s.program := rfl
@[simp] theorem State.putRes_schedule : (s.putRes x).schedule = s.schedule := rfl
end PutRes

section PutWin
variable (s : State) (x : Window)
@[simp] theorem State.putWin_cfg : (s.putWin x).cfg = s.cfg := rfl
@[simp] theorem State.putWin_ie : (s.putWin x).ie = s.ie := rfl
@[simp] theorem State.putWin_status : (s.putWin x).status = s.status := rfl
@[simp] theorem State.putWin_engine : (s.putWin x).engine = s.engine := rfl
@[simp] theorem State.putWin_latch : (s.putWin x).latch = s.latch := rfl
@[simp] theorem State.putWin_args : (s.putWin x).args = s.args := rfl
@[simp] theorem State.putWin_res : (s.putWin x).res = s.res := rfl
@[simp] theorem State.putWin_win : (s.putWin x).win = x := rfl
@[simp] theorem State.putWin_slots : (s.putWin x).slots = s.slots := rfl
@[simp] theorem State.putWin_mem : (s.putWin x).mem = s.mem := rfl
@[simp] theorem State.putWin_bus : (s.putWin x).bus = s.bus := rfl
@[simp] theorem State.putWin_program : (s.putWin x).program = s.program := rfl
@[simp] theorem State.putWin_schedule : (s.putWin x).schedule = s.schedule := rfl
end PutWin

section PutSlots
variable (s : State) (x : List Slot)
@[simp] theorem State.putSlots_cfg : (s.putSlots x).cfg = s.cfg := rfl
@[simp] theorem State.putSlots_ie : (s.putSlots x).ie = s.ie := rfl
@[simp] theorem State.putSlots_status : (s.putSlots x).status = s.status := rfl
@[simp] theorem State.putSlots_engine : (s.putSlots x).engine = s.engine := rfl
@[simp] theorem State.putSlots_latch : (s.putSlots x).latch = s.latch := rfl
@[simp] theorem State.putSlots_args : (s.putSlots x).args = s.args := rfl
@[simp] theorem State.putSlots_res : (s.putSlots x).res = s.res := rfl
@[simp] theorem State.putSlots_win : (s.putSlots x).win = s.win := rfl
@[simp] theorem State.putSlots_slots : (s.putSlots x).slots = x := rfl
@[simp] theorem State.putSlots_mem : (s.putSlots x).mem = s.mem := rfl
@[simp] theorem State.putSlots_bus : (s.putSlots x).bus = s.bus := rfl
@[simp] theorem State.putSlots_program : (s.putSlots x).program = s.program := rfl
@[simp] theorem State.putSlots_schedule : (s.putSlots x).schedule = s.schedule := rfl
end PutSlots

section PutStatus
variable (s : State) (x : Status)
@[simp] theorem State.putStatus_cfg : (s.putStatus x).cfg = s.cfg := rfl
@[simp] theorem State.putStatus_ie : (s.putStatus x).ie = s.ie := rfl
@[simp] theorem State.putStatus_status : (s.putStatus x).status = x := rfl
@[simp] theorem State.putStatus_engine : (s.putStatus x).engine = s.engine := rfl
@[simp] theorem State.putStatus_latch : (s.putStatus x).latch = s.latch := rfl
@[simp] theorem State.putStatus_args : (s.putStatus x).args = s.args := rfl
@[simp] theorem State.putStatus_res : (s.putStatus x).res = s.res := rfl
@[simp] theorem State.putStatus_win : (s.putStatus x).win = s.win := rfl
@[simp] theorem State.putStatus_slots : (s.putStatus x).slots = s.slots := rfl
@[simp] theorem State.putStatus_mem : (s.putStatus x).mem = s.mem := rfl
@[simp] theorem State.putStatus_bus : (s.putStatus x).bus = s.bus := rfl
@[simp] theorem State.putStatus_program : (s.putStatus x).program = s.program := rfl
@[simp] theorem State.putStatus_schedule : (s.putStatus x).schedule = s.schedule := rfl
end PutStatus

section PutArgs
variable (s : State) (x : Args)
@[simp] theorem State.putArgs_cfg : (s.putArgs x).cfg = s.cfg := rfl
@[simp] theorem State.putArgs_ie : (s.putArgs x).ie = s.ie := rfl
@[simp] theorem State.putArgs_status : (s.putArgs x).status = s.status := rfl
@[simp] theorem State.putArgs_engine : (s.putArgs x).engine = s.engine := rfl
@[simp] theorem State.putArgs_latch : (s.putArgs x).latch = s.latch := rfl
@[simp] theorem State.putArgs_args : (s.putArgs x).args = x := rfl
@[simp] theorem State.putArgs_res : (s.putArgs x).res = s.res := rfl
@[simp] theorem State.putArgs_win : (s.putArgs x).win = s.win := rfl
@[simp] theorem State.putArgs_slots : (s.putArgs x).slots = s.slots := rfl
@[simp] theorem State.putArgs_mem : (s.putArgs x).mem = s.mem := rfl
@[simp] theorem State.putArgs_bus : (s.putArgs x).bus = s.bus := rfl
@[simp] theorem State.putArgs_program : (s.putArgs x).program = s.program := rfl
@[simp] theorem State.putArgs_schedule : (s.putArgs x).schedule = s.schedule := rfl
end PutArgs

section PutIe
variable (s : State) (x : Bool)
@[simp] theorem State.putIe_cfg : (s.putIe x).cfg = s.cfg := rfl
@[simp] theorem State.putIe_ie : (s.putIe x).ie = x := rfl
@[simp] theorem State.putIe_status : (s.putIe x).status = s.status := rfl
@[simp] theorem State.putIe_engine : (s.putIe x).engine = s.engine := rfl
@[simp] theorem State.putIe_latch : (s.putIe x).latch = s.latch := rfl
@[simp] theorem State.putIe_args : (s.putIe x).args = s.args := rfl
@[simp] theorem State.putIe_res : (s.putIe x).res = s.res := rfl
@[simp] theorem State.putIe_win : (s.putIe x).win = s.win := rfl
@[simp] theorem State.putIe_slots : (s.putIe x).slots = s.slots := rfl
@[simp] theorem State.putIe_mem : (s.putIe x).mem = s.mem := rfl
@[simp] theorem State.putIe_bus : (s.putIe x).bus = s.bus := rfl
@[simp] theorem State.putIe_program : (s.putIe x).program = s.program := rfl
@[simp] theorem State.putIe_schedule : (s.putIe x).schedule = s.schedule := rfl
end PutIe

section PutBus
variable (s : State) (x : BusResponse)
@[simp] theorem State.putBus_cfg : (s.putBus x).cfg = s.cfg := rfl
@[simp] theorem State.putBus_ie : (s.putBus x).ie = s.ie := rfl
@[simp] theorem State.putBus_status : (s.putBus x).status = s.status := rfl
@[simp] theorem State.putBus_engine : (s.putBus x).engine = s.engine := rfl
@[simp] theorem State.putBus_latch : (s.putBus x).latch = s.latch := rfl
@[simp] theorem State.putBus_args : (s.putBus x).args = s.args := rfl
@[simp] theorem State.putBus_res : (s.putBus x).res = s.res := rfl
@[simp] theorem State.putBus_win : (s.putBus x).win = s.win := rfl
@[simp] theorem State.putBus_slots : (s.putBus x).slots = s.slots := rfl
@[simp] theorem State.putBus_mem : (s.putBus x).mem = s.mem := rfl
@[simp] theorem State.putBus_bus : (s.putBus x).bus = x := rfl
@[simp] theorem State.putBus_program : (s.putBus x).program = s.program := rfl
@[simp] theorem State.putBus_schedule : (s.putBus x).schedule = s.schedule := rfl
end PutBus

section PutProgram
variable (s : State) (x : List HostLine)
@[simp] theorem State.putProgram_cfg : (s.putProgram x).cfg = s.cfg := rfl
@[simp] theorem State.putProgram_ie : (s.putProgram x).ie = s.ie := rfl
@[simp] theorem State.putProgram_status : (s.putProgram x).status = s.status := rfl
@[simp] theorem State.putProgram_engine : (s.putProgram x).engine = s.engine := rfl
@[simp] theorem State.putProgram_latch : (s.putProgram x).latch = s.latch := rfl
@[simp] theorem State.putProgram_args : (s.putProgram x).args = s.args := rfl
@[simp] theorem State.putProgram_res : (s.putProgram x).res = s.res := rfl
@[simp] theorem State.putProgram_win : (s.putProgram x).win = s.win := rfl
@[simp] theorem State.putProgram_slots : (s.putProgram x).slots = s.slots := rfl
@[simp] theorem State.putProgram_mem : (s.putProgram x).mem = s.mem := rfl
@[simp] theorem State.putProgram_bus : (s.putProgram x).bus = s.bus := rfl
@[simp] theorem State.putProgram_program : (s.putProgram x).program = x := rfl
@[simp] theorem State.putProgram_schedule : (s.putProgram x).schedule = s.schedule := rfl
end PutProgram

section PutSchedule
variable (s : State) (x : List Mover)
@[simp] theorem State.putSchedule_cfg : (s.putSchedule x).cfg = s.cfg := rfl
@[simp] theorem State.putSchedule_ie : (s.putSchedule x).ie = s.ie := rfl
@[simp] theorem State.putSchedule_status : (s.putSchedule x).status = s.status := rfl
@[simp] theorem State.putSchedule_engine : (s.putSchedule x).engine = s.engine := rfl
@[simp] theorem State.putSchedule_latch : (s.putSchedule x).latch = s.latch := rfl
@[simp] theorem State.putSchedule_args : (s.putSchedule x).args = s.args := rfl
@[simp] theorem State.putSchedule_res : (s.putSchedule x).res = s.res := rfl
@[simp] theorem State.putSchedule_win : (s.putSchedule x).win = s.win := rfl
@[simp] theorem State.putSchedule_slots : (s.putSchedule x).slots = s.slots := rfl
@[simp] theorem State.putSchedule_mem : (s.putSchedule x).mem = s.mem := rfl
@[simp] theorem State.putSchedule_bus : (s.putSchedule x).bus = s.bus := rfl
@[simp] theorem State.putSchedule_program : (s.putSchedule x).program = s.program := rfl
@[simp] theorem State.putSchedule_schedule : (s.putSchedule x).schedule = x := rfl
end PutSchedule

section Finish
variable (s : State) (rc : RC)
@[simp] theorem finish_cfg : (finish rc s).cfg = s.cfg := rfl
@[simp] theorem finish_ie : (finish rc s).ie = s.ie := rfl
@[simp] theorem finish_status : (finish rc s).status = { s.status with rc := rc, done := true } := rfl
@[simp] theorem finish_engine : (finish rc s).engine = .idle := rfl
@[simp] theorem finish_latch : (finish rc s).latch = s.latch := rfl
@[simp] theorem finish_args : (finish rc s).args = s.args := rfl
@[simp] theorem finish_res : (finish rc s).res = s.res := rfl
@[simp] theorem finish_win : (finish rc s).win = s.win := rfl
@[simp] theorem finish_slots : (finish rc s).slots = s.slots := rfl
@[simp] theorem finish_mem : (finish rc s).mem = s.mem := rfl
@[simp] theorem finish_bus : (finish rc s).bus = s.bus := rfl
@[simp] theorem finish_program : (finish rc s).program = s.program := rfl
@[simp] theorem finish_schedule : (finish rc s).schedule = s.schedule := rfl
end Finish

section Accept
variable (s : State) (w : Word)
@[simp] theorem accept_cfg : (accept w s).cfg = s.cfg := rfl
@[simp] theorem accept_ie : (accept w s).ie = s.ie := rfl
@[simp] theorem accept_status : (accept w s).status = { s.status with done := false } := rfl
@[simp] theorem accept_engine : (accept w s).engine = .busy := rfl
@[simp] theorem accept_latch : (accept w s).latch = { w := w, args := s.args } := rfl
@[simp] theorem accept_args : (accept w s).args = s.args := rfl
@[simp] theorem accept_res : (accept w s).res = s.res := rfl
@[simp] theorem accept_win : (accept w s).win = s.win := rfl
@[simp] theorem accept_slots : (accept w s).slots = s.slots := rfl
@[simp] theorem accept_mem : (accept w s).mem = s.mem := rfl
@[simp] theorem accept_bus : (accept w s).bus = s.bus := rfl
@[simp] theorem accept_program : (accept w s).program = s.program := rfl
@[simp] theorem accept_schedule : (accept w s).schedule = s.schedule := rfl
end Accept

section Reset
variable (s : State)
@[simp] theorem resetBlock_cfg : (resetBlock s).cfg = s.cfg := rfl
@[simp] theorem resetBlock_ie : (resetBlock s).ie = false := rfl
@[simp] theorem resetBlock_status : (resetBlock s).status = .reset := rfl
@[simp] theorem resetBlock_engine : (resetBlock s).engine = .idle := rfl
@[simp] theorem resetBlock_latch : (resetBlock s).latch = { w := 0, args := .reset } := rfl
@[simp] theorem resetBlock_args : (resetBlock s).args = .reset := rfl
@[simp] theorem resetBlock_res : (resetBlock s).res = .reset := rfl
@[simp] theorem resetBlock_win : (resetBlock s).win = .reset := rfl
@[simp] theorem resetBlock_slots : (resetBlock s).slots = List.replicate s.cfg.capMax .reset := rfl
@[simp] theorem resetBlock_mem : (resetBlock s).mem = [] := rfl
@[simp] theorem resetBlock_bus : (resetBlock s).bus = s.bus := rfl
@[simp] theorem resetBlock_program : (resetBlock s).program = s.program := rfl
@[simp] theorem resetBlock_schedule : (resetBlock s).schedule = s.schedule := rfl
end Reset

section Derived
variable (s : State)
@[simp] theorem writeBuf_cfg (b : Buf) (off : Nat) (bytes : List Byte) : (writeBuf s b off bytes).cfg = s.cfg := rfl
@[simp] theorem writeBuf_ie (b : Buf) (off : Nat) (bytes : List Byte) : (writeBuf s b off bytes).ie = s.ie := rfl
@[simp] theorem writeBuf_status (b : Buf) (off : Nat) (bytes : List Byte) : (writeBuf s b off bytes).status = s.status := rfl
@[simp] theorem writeBuf_engine (b : Buf) (off : Nat) (bytes : List Byte) : (writeBuf s b off bytes).engine = s.engine := rfl
@[simp] theorem writeBuf_latch (b : Buf) (off : Nat) (bytes : List Byte) : (writeBuf s b off bytes).latch = s.latch := rfl
@[simp] theorem writeBuf_args (b : Buf) (off : Nat) (bytes : List Byte) : (writeBuf s b off bytes).args = s.args := rfl
@[simp] theorem writeBuf_res (b : Buf) (off : Nat) (bytes : List Byte) : (writeBuf s b off bytes).res = s.res := rfl
@[simp] theorem writeBuf_win (b : Buf) (off : Nat) (bytes : List Byte) : (writeBuf s b off bytes).win = s.win := rfl
@[simp] theorem writeBuf_slots (b : Buf) (off : Nat) (bytes : List Byte) : (writeBuf s b off bytes).slots = s.slots := rfl
@[simp] theorem writeBuf_bus (b : Buf) (off : Nat) (bytes : List Byte) : (writeBuf s b off bytes).bus = s.bus := rfl
@[simp] theorem writeBuf_program (b : Buf) (off : Nat) (bytes : List Byte) : (writeBuf s b off bytes).program = s.program := rfl
@[simp] theorem writeBuf_schedule (b : Buf) (off : Nat) (bytes : List Byte) : (writeBuf s b off bytes).schedule = s.schedule := rfl
@[simp] theorem writeBuf_mem (b : Buf) (off : Nat) (bytes : List Byte) :
    (writeBuf s b off bytes).mem = s.mem.writeRange (bufAddr b off) bytes := rfl
@[simp] theorem setSlot_cfg (k : Nat) (x : Slot) : (setSlot s k x).cfg = s.cfg := rfl
@[simp] theorem setSlot_ie (k : Nat) (x : Slot) : (setSlot s k x).ie = s.ie := rfl
@[simp] theorem setSlot_status (k : Nat) (x : Slot) : (setSlot s k x).status = s.status := rfl
@[simp] theorem setSlot_engine (k : Nat) (x : Slot) : (setSlot s k x).engine = s.engine := rfl
@[simp] theorem setSlot_latch (k : Nat) (x : Slot) : (setSlot s k x).latch = s.latch := rfl
@[simp] theorem setSlot_args (k : Nat) (x : Slot) : (setSlot s k x).args = s.args := rfl
@[simp] theorem setSlot_res (k : Nat) (x : Slot) : (setSlot s k x).res = s.res := rfl
@[simp] theorem setSlot_win (k : Nat) (x : Slot) : (setSlot s k x).win = s.win := rfl
@[simp] theorem setSlot_mem (k : Nat) (x : Slot) : (setSlot s k x).mem = s.mem := rfl
@[simp] theorem setSlot_bus (k : Nat) (x : Slot) : (setSlot s k x).bus = s.bus := rfl
@[simp] theorem setSlot_program (k : Nat) (x : Slot) : (setSlot s k x).program = s.program := rfl
@[simp] theorem setSlot_schedule (k : Nat) (x : Slot) : (setSlot s k x).schedule = s.schedule := rfl
@[simp] theorem setSlot_slots (k : Nat) (x : Slot) : (setSlot s k x).slots = s.slots.set k x := rfl
@[simp] theorem reportSlot_cfg (k : Nat) (n : Word) : (reportSlot s k n).cfg = s.cfg := rfl
@[simp] theorem reportSlot_ie (k : Nat) (n : Word) : (reportSlot s k n).ie = s.ie := rfl
@[simp] theorem reportSlot_status (k : Nat) (n : Word) : (reportSlot s k n).status = s.status := rfl
@[simp] theorem reportSlot_engine (k : Nat) (n : Word) : (reportSlot s k n).engine = s.engine := rfl
@[simp] theorem reportSlot_latch (k : Nat) (n : Word) : (reportSlot s k n).latch = s.latch := rfl
@[simp] theorem reportSlot_args (k : Nat) (n : Word) : (reportSlot s k n).args = s.args := rfl
@[simp] theorem reportSlot_win (k : Nat) (n : Word) : (reportSlot s k n).win = s.win := rfl
@[simp] theorem reportSlot_slots (k : Nat) (n : Word) : (reportSlot s k n).slots = s.slots := rfl
@[simp] theorem reportSlot_mem (k : Nat) (n : Word) : (reportSlot s k n).mem = s.mem := rfl
@[simp] theorem reportSlot_bus (k : Nat) (n : Word) : (reportSlot s k n).bus = s.bus := rfl
@[simp] theorem reportSlot_program (k : Nat) (n : Word) : (reportSlot s k n).program = s.program := rfl
@[simp] theorem reportSlot_schedule (k : Nat) (n : Word) : (reportSlot s k n).schedule = s.schedule := rfl
@[simp] theorem respondRead_cfg (v : Word) : (respondRead v s).cfg = s.cfg := rfl
@[simp] theorem respondRead_ie (v : Word) : (respondRead v s).ie = s.ie := rfl
@[simp] theorem respondRead_status (v : Word) : (respondRead v s).status = s.status := rfl
@[simp] theorem respondRead_engine (v : Word) : (respondRead v s).engine = s.engine := rfl
@[simp] theorem respondRead_latch (v : Word) : (respondRead v s).latch = s.latch := rfl
@[simp] theorem respondRead_args (v : Word) : (respondRead v s).args = s.args := rfl
@[simp] theorem respondRead_res (v : Word) : (respondRead v s).res = s.res := rfl
@[simp] theorem respondRead_win (v : Word) : (respondRead v s).win = s.win := rfl
@[simp] theorem respondRead_slots (v : Word) : (respondRead v s).slots = s.slots := rfl
@[simp] theorem respondRead_mem (v : Word) : (respondRead v s).mem = s.mem := rfl
@[simp] theorem respondRead_program (v : Word) : (respondRead v s).program = s.program := rfl
@[simp] theorem respondRead_schedule (v : Word) : (respondRead v s).schedule = s.schedule := rfl
@[simp] theorem respondRead_bus (v : Word) : (respondRead v s).bus = { err := false, rdata := v } := rfl
@[simp] theorem respondWrite_cfg : (respondWrite s).cfg = s.cfg := rfl
@[simp] theorem respondWrite_ie : (respondWrite s).ie = s.ie := rfl
@[simp] theorem respondWrite_status : (respondWrite s).status = s.status := rfl
@[simp] theorem respondWrite_engine : (respondWrite s).engine = s.engine := rfl
@[simp] theorem respondWrite_latch : (respondWrite s).latch = s.latch := rfl
@[simp] theorem respondWrite_args : (respondWrite s).args = s.args := rfl
@[simp] theorem respondWrite_res : (respondWrite s).res = s.res := rfl
@[simp] theorem respondWrite_win : (respondWrite s).win = s.win := rfl
@[simp] theorem respondWrite_slots : (respondWrite s).slots = s.slots := rfl
@[simp] theorem respondWrite_mem : (respondWrite s).mem = s.mem := rfl
@[simp] theorem respondWrite_program : (respondWrite s).program = s.program := rfl
@[simp] theorem respondWrite_schedule : (respondWrite s).schedule = s.schedule := rfl
@[simp] theorem respondWrite_bus : (respondWrite s).bus = { s.bus with err := false } := rfl
end Derived

end Sys2Proof.Machine
end

