-- ==== Sys2Proof/Laws/Memory.lean ====
section
/-! SUPPORT. The laws of memory: read after write, and every operation keeps the canonical form. -/

namespace Sys2Proof.Machine

@[simp] theorem Memory.read?_write_same (m : Memory) (a : Nat) (v : Byte) : Memory.read? (m.write a v) a = some v := by
  induction m with
  | nil => simp [Memory.write, Memory.read?]
  | cons c m ih =>
    obtain ⟨k, b⟩ := c
    simp only [Memory.write]
    split
    · simp [Memory.read?]
    · split
      · simp [Memory.read?]
      · simp [Memory.read?, ih, show k ≠ a by omega]

theorem Memory.read?_write_of_ne (m : Memory) {a c : Nat} (v : Byte) (h : c ≠ a) :
    Memory.read? (m.write a v) c = Memory.read? m c := by
  induction m with
  | nil => simp [Memory.write, Memory.read?, Ne.symm h]
  | cons d m ih =>
    obtain ⟨k, b⟩ := d
    simp only [Memory.write]
    split
    · simp [Memory.read?, Ne.symm h]
    · split
      · subst_vars
        simp [Memory.read?, Ne.symm h]
      · simp [Memory.read?, ih]

/-- Outside the bytes written, a range write changes nothing. -/
theorem Memory.read?_writeRange_of_outside (m : Memory) (a : Nat) (bytes : List Byte) {c : Nat}
    (h : ¬(a ≤ c ∧ c < a + bytes.length)) : Memory.read? (m.writeRange a bytes) c = Memory.read? m c := by
  induction bytes generalizing m a with
  | nil => rfl
  | cons v vs ih =>
    simp only [List.length_cons] at h
    rw [Memory.writeRange, ih _ _ (by omega), Memory.read?_write_of_ne _ _ (by omega)]

/-- Inside the bytes written, a range write leaves its own bytes. -/
theorem Memory.read?_writeRange_of_inside (m : Memory) (a : Nat) (bytes : List Byte) (i : Nat) (h : i < bytes.length) :
    Memory.read? (m.writeRange a bytes) (a + i) = some bytes[i] := by
  induction bytes generalizing m a i with
  | nil => simp at h
  | cons v vs ih =>
    cases i with
    | zero => rw [Memory.writeRange, Memory.read?_writeRange_of_outside _ _ _ (by omega)]; simp
    | succ i =>
      simp only [List.length_cons] at h
      rw [Memory.writeRange, show a + (i + 1) = a + 1 + i by omega, ih _ _ i (by omega)]
      simp

theorem Memory.mem_write {m : Memory} {a : Nat} {v : Byte} {c : Host.Cell} (h : c ∈ m.write a v) :
    c = (a, v) ∨ c ∈ m := by
  induction m with
  | nil => simpa [Memory.write] using h
  | cons d m ih =>
    obtain ⟨k, b⟩ := d
    simp only [Memory.write] at h
    split at h
    · simpa using h
    · split at h
      · simp only [List.mem_cons] at h ⊢
        tauto
      · simp only [List.mem_cons] at h ⊢
        rcases h with h | h
        · exact .inr (.inl h)
        · rcases ih h with h | h <;> simp [h]

/-- Every cell of a memory after a range write is one written or one that stood there. -/
theorem Memory.mem_writeRange {m : Memory} {a : Nat} {bytes : List Byte} {c : Host.Cell}
    (h : c ∈ m.writeRange a bytes) : (a ≤ c.1 ∧ c.1 < a + bytes.length) ∨ c ∈ m := by
  induction bytes generalizing m a with
  | nil => exact .inr h
  | cons v vs ih =>
    rcases ih (m := m.write a v) (a := a + 1) h with h | h
    · simp only [List.length_cons]; omega
    · rcases Memory.mem_write h with rfl | h
      · left; simp
      · exact .inr h

/-- A one-byte write keeps the canonical form. -/
theorem Memory.write_wf {m : Memory} (a : Nat) (v : Byte) (h : Memory.wf m) : Memory.wf (m.write a v) := by
  induction m with
  | nil => simp [Memory.write]
  | cons d m ih =>
    obtain ⟨k, b⟩ := d
    obtain ⟨hk, hm⟩ := List.pairwise_cons.mp h
    simp only [Memory.write]
    split
    · refine List.pairwise_cons.mpr ⟨fun c hc => ?_, h⟩
      rcases List.mem_cons.mp hc with rfl | hc
      · assumption
      · have := hk c hc; simp only at this ⊢; omega
    · split
      · subst_vars
        exact List.pairwise_cons.mpr ⟨hk, hm⟩
      · refine List.pairwise_cons.mpr ⟨fun c hc => ?_, ih hm⟩
        rcases Memory.mem_write hc with rfl | hc
        · simp only; omega
        · exact hk c hc

/-- A range write keeps the canonical form. -/
theorem Memory.writeRange_wf {m : Memory} (a : Nat) (bytes : List Byte) (h : Memory.wf m) :
    Memory.wf (m.writeRange a bytes) := by
  induction bytes generalizing m a with
  | nil => exact h
  | cons v vs ih => exact ih _ (Memory.write_wf a v h)

/-- What a range read can answer: the bytes that stand there, all of them written. -/
theorem Memory.readRange_eq_ok_iff {m : Memory} {a n : Nat} {bytes : List Byte} :
    m.readRange a n = .ok bytes ↔
      bytes.length = n ∧ ∀ i, (h : i < bytes.length) → Memory.read? m (a + i) = some bytes[i] := by
  induction n generalizing a bytes with
  | zero =>
    simp only [Memory.readRange]
    constructor
    · rintro ⟨⟩; simp
    · rintro ⟨hl, -⟩; rw [List.length_eq_zero_iff.mp hl]
  | succ n ih =>
    simp only [Memory.readRange]
    constructor
    · intro h
      split at h
      · cases h
      · rename_i v hv
        split at h
        · cases h
        · rename_i bs hbs
          cases h
          obtain ⟨hl, hr⟩ := ih.mp hbs
          refine ⟨by simp [hl], fun i hi => ?_⟩
          cases i with
          | zero => simpa using hv
          | succ i =>
            have := hr i (by simpa using hi)
            simpa [show a + (i + 1) = a + 1 + i by omega] using this
    · rintro ⟨hl, hr⟩
      cases bytes with
      | nil => simp at hl
      | cons v bs =>
        have h0 : Memory.read? m a = some v := hr 0 (by simp)
        have h1 : m.readRange (a + 1) n = .ok bs := by
          refine ih.mpr ⟨by simpa using hl, fun i hi => ?_⟩
          have := hr (i + 1) (by simpa using hi)
          simpa [show a + (i + 1) = a + 1 + i by omega] using this
        simp [h0, h1]

/-- A range read that stops names an unwritten address of the range. -/
theorem Memory.readRange_eq_error {m : Memory} {a n e : Nat} (h : m.readRange a n = .error e) :
    ∃ i, i < n ∧ e = a + i ∧ Memory.read? m (a + i) = none := by
  induction n generalizing a with
  | zero => simp [Memory.readRange] at h
  | succ n ih =>
    simp only [Memory.readRange] at h
    split at h
    · rename_i hv
      cases h
      exact ⟨0, by omega, by simp, by simpa using hv⟩
    · split at h
      · rename_i e' he
        cases h
        obtain ⟨i, hi, rfl, hr⟩ := ih he
        exact ⟨i + 1, by omega, by omega, by simpa [show a + (i + 1) = a + 1 + i by omega] using hr⟩
      · cases h

/-- A range with an unwritten byte stops the read, at an unwritten address of the range. -/
theorem Memory.readRange_of_unwritten {m : Memory} {a n : Nat} (h : ∃ i, i < n ∧ Memory.read? m (a + i) = none) :
    ∃ i, i < n ∧ Memory.read? m (a + i) = none ∧ m.readRange a n = .error (a + i) := by
  cases hr : m.readRange a n with
  | ok bytes =>
    obtain ⟨i, hi, hn⟩ := h
    obtain ⟨hl, hb⟩ := Memory.readRange_eq_ok_iff.mp hr
    have := hb i (by omega)
    simp [this] at hn
  | error e =>
    obtain ⟨i, hi, rfl, hn⟩ := Memory.readRange_eq_error hr
    exact ⟨i, hi, hn, rfl⟩

@[simp] theorem Memory.wf_nil : Memory.wf [] := List.Pairwise.nil

@[simp] theorem Memory.read?_nil (a : Nat) : Memory.read? [] a = none := rfl

end Sys2Proof.Machine
end

