-- ==== Sys2Proof/Laws/Operands.lean ====
section
/-! SUPPORT. The address map, derived parameters, buffer reads and slots: one lemma each on what they can answer. -/

namespace Sys2Proof.Machine

theorem Config.wf_iff (c : Config) : c.wf = true ↔
    1 ≤ c.capMax ∧ c.capMax ≤ 65536 ∧ 1 ≤ c.payloadMax ∧ c.payloadMax ≤ 2040 ∧ c.flags.all.Nodup := by
  simp [Config.wf, and_assoc]

theorem Config.capMax_le {c : Config} (h : c.wf = true) : c.capMax ≤ 65536 := ((Config.wf_iff c).mp h).2.1

theorem Config.payloadMax_le {c : Config} (h : c.wf = true) : c.payloadMax ≤ 2040 := ((Config.wf_iff c).mp h).2.2.2.1

theorem bufSize_le {c : Config} (h : c.wf = true) : bufSize c ≤ 2048 := by
  have := Config.payloadMax_le h
  simp only [bufSize, frameMax, hdrLen]; omega

theorem frameMax_le_bufSize (c : Config) : frameMax c ≤ bufSize c := by
  simp only [bufSize]; omega

theorem bufSize_mod_four (c : Config) : bufSize c % 4 = 0 := by
  simp only [bufSize]; omega

/-- BASE cancels: the block sees the offset the host's line names. -/
@[simp] theorem portOffset_hostAddress (c : Config) (off : BusOffset) : portOffset c (hostAddress c off) = off := by
  simp [portOffset, hostAddress]

/-- An address names a register exactly when it is that register's offset. -/
theorem regOfOffset_eq_some {a : Nat} {r : Reg} : regOfOffset a = some r ↔ a = (regOffset r).toNat := by
  constructor
  · intro h
    unfold regOfOffset at h
    split at h <;> first | (cases h; rfl) | cases h
  · rintro rfl
    cases r <;> rfl

theorem regOffset_lt (r : Reg) : (regOffset r).toNat < 0x1000 := by cases r <;> decide

@[simp] theorem regionOf_regOffset (c : Config) (r : Reg) : regionOf c (regOffset r).toNat = .reg r := by
  simp [regionOf, regOffset_lt r, regOfOffset_eq_some.mpr rfl]

theorem regionOf_eq_reg {c : Config} {a : Nat} {r : Reg} (h : regionOf c a = .reg r) : a = (regOffset r).toNat := by
  unfold regionOf at h
  split at h
  · split at h
    · rename_i q hq
      cases h
      exact regOfOffset_eq_some.mp hq
    · cases h
  · split at h
    · cases h
    · split at h <;> cases h

theorem regionOf_eq_buf {c : Config} {a i : Nat} {b : Buf} (h : regionOf c a = .buf b i) :
    a = bufAddr b i ∧ i < bufSize c := by
  unfold regionOf at h
  split at h
  · split at h <;> cases h
  · split at h
    · cases h; simp only [bufAddr, bufBase]; omega
    · split at h
      · cases h; simp only [bufAddr, bufBase]; omega
      · cases h

theorem regionOf_bufAddr {c : Config} (hc : c.wf = true) (b : Buf) {i : Nat} (h : i < bufSize c) :
    regionOf c (bufAddr b i) = .buf b i := by
  have := bufSize_le hc
  cases b
  · simp [regionOf, bufAddr, bufBase, h]
  · have h1 : ¬ (0x2000 + i < 0x1000) := by omega
    have h2 : ¬ (0x2000 + i < 0x1000 + bufSize c) := by omega
    simp only [regionOf, bufAddr, bufBase, h1, h2, if_false]
    simp [h]

/-- What a buffer read can answer. -/
theorem readBuf_eq_ok_iff {s : State} {b : Buf} {off n : Nat} {bytes : List Byte} :
    readBuf s b off n = .ok bytes ↔
      bytes.length = n ∧ ∀ i, (h : i < bytes.length) → Memory.read? s.mem (bufAddr b (off + i)) = some bytes[i] := by
  simp only [readBuf, Memory.readRange_eq_ok_iff, bufAddr, Nat.add_assoc]

theorem readBuf_eq_error {s : State} {b : Buf} {off n e : Nat} (h : readBuf s b off n = .error e) :
    ∃ i, i < n ∧ e = bufAddr b (off + i) ∧ Memory.read? s.mem (bufAddr b (off + i)) = none := by
  obtain ⟨i, hi, he, hn⟩ := Memory.readRange_eq_error h
  exact ⟨i, hi, by simpa [bufAddr, Nat.add_assoc] using he, by simpa [bufAddr, Nat.add_assoc] using hn⟩

theorem readBuf_of_unwritten {s : State} {b : Buf} {off n : Nat}
    (h : ∃ i, i < n ∧ Memory.read? s.mem (bufAddr b (off + i)) = none) :
    ∃ i, i < n ∧ Memory.read? s.mem (bufAddr b (off + i)) = none ∧ readBuf s b off n = .error (bufAddr b (off + i)) := by
  simpa only [readBuf, bufAddr, Nat.add_assoc] using Memory.readRange_of_unwritten (m := s.mem) (a := bufAddr b off)
    (n := n) (by simpa only [bufAddr, Nat.add_assoc] using h)

@[simp] theorem be32Bytes_length (v : Word) : (be32Bytes v).length = 4 := rfl

@[simp] theorem be16Bytes_length (v : Half) : (be16Bytes v).length = 2 := rfl

theorem slotAt_eq_getElem {s : State} {k : Nat} (h : k < s.slots.length) : slotAt s k = s.slots[k] := by
  simp [slotAt, h]

theorem slotAt_mem {s : State} {k : Nat} (h : k < s.slots.length) : slotAt s k ∈ s.slots := by
  simp [slotAt_eq_getElem h]

/-- What replacing a slot does: that slot, if it exists, and no other. -/
theorem slotAt_setSlot (s : State) (k j : Nat) (x : Slot) :
    slotAt (setSlot s k x) j = if k = j ∧ j < s.slots.length then x else slotAt s j := by
  simp only [slotAt, setSlot_slots, List.getD_eq_getElem?_getD, List.getElem?_set]
  by_cases h : k = j
  · subst h
    by_cases hk : k < s.slots.length <;> simp [hk]
  · simp [h]

@[simp] theorem clearSlots_length (n : Nat) (l : List Slot) : (clearSlots n l).length = l.length := by
  simp [clearSlots]; omega

/-- What clearing the first slots does. -/
theorem clearSlots_getD (n k : Nat) (l : List Slot) :
    (clearSlots n l).getD k .reset = if k < n ∧ k < l.length then clearSlot (l.getD k .reset) else l.getD k .reset := by
  simp only [clearSlots, List.getD_eq_getElem?_getD, List.getElem?_append, List.length_map, List.length_take,
    List.getElem?_map, List.getElem?_take, List.getElem?_drop]
  by_cases hk : k < l.length
  · by_cases hn : k < n
    · simp [hk, hn]
    · have h1 : ¬ k < min n l.length := by omega
      have h2 : n + (k - min n l.length) = k := by omega
      simp [hn, h1, h2]
  · have h1 : ¬ k < min n l.length := by omega
    have h2 : l.length ≤ n + (k - min n l.length) := by omega
    have h3 : l[k]? = none := List.getElem?_eq_none (by omega)
    simp only [h1, hk, List.getElem?_eq_none h2, h3, if_false, and_false]

theorem mem_clearSlots {n : Nat} {l : List Slot} {x : Slot} (h : x ∈ clearSlots n l) : ∃ y ∈ l, x.data = y.data := by
  simp only [clearSlots, List.mem_append, List.mem_map] at h
  rcases h with ⟨y, hy, rfl⟩ | h
  · exact ⟨y, List.mem_of_mem_take hy, rfl⟩
  · exact ⟨x, List.mem_of_mem_drop h, rfl⟩

@[simp] theorem slotData_length (k : Nat) (x : Slot) : (slotData k x).length = x.dlen.toNat := by simp [slotData]

/-- The data of a slot whose bytes below `dlen` are all written are those bytes. -/
theorem slotData_of_written {k : Nat} {x : Slot} {bytes : List Byte} (hl : bytes.length = x.dlen.toNat)
    (h : ∀ i, (hi : i < bytes.length) → Memory.read? x.data i = some bytes[i]) : slotData k x = bytes := by
  apply List.ext_getElem (by simp [hl])
  intro i h1 h2
  simp [slotData, h i h2]

/-- What the window preconditions can answer (43_window.md R130). -/
theorem windowCheck_cases (usesSeq : Bool) (s : State) :
    (s.win.valid = false ∧ windowCheck usesSeq s = some .noInit) ∨
    (s.win.valid = true ∧ usesSeq = true ∧ seqMax < s.latch.args.seq.toNat ∧ windowCheck usesSeq s = some .seqRange) ∨
    (s.win.valid = true ∧ (usesSeq = true → s.latch.args.seq.toNat ≤ seqMax) ∧ windowCheck usesSeq s = none) := by
  unfold windowCheck
  cases hv : s.win.valid <;> cases usesSeq <;> simp
  omega

end Sys2Proof.Machine
end

