-- ==== Sys2Proof/Laws/Bus.lean ====
section
/-! SUPPORT. What a bus access, an agent's turn and a step can answer. -/

namespace Sys2Proof.Machine

/-- A bus access that completes: a register read, a register write, a buffer read, or a buffer write. -/
theorem busAccess_cases {a : Access} {s t : State} (h : busAccess a s = .next t) :
    (∃ r, a.addr.toNat = (regOffset r).toNat ∧ a.size = .word ∧ a.write = false ∧ t = respondRead (readReg r s) s) ∨
    (∃ r u, a.addr.toNat = (regOffset r).toNat ∧ a.size = .word ∧ a.write = true ∧ writeReg r a.wdata s = some u ∧
      t = respondWrite u) ∨
    (s.engine = .idle ∧ a.write = false ∧ ∃ v, t = respondRead v s) ∨
    (s.engine = .idle ∧ a.write = true ∧ ∃ b off bytes, a.addr.toNat = bufAddr b off ∧
      off + bytes.length ≤ bufSize s.cfg ∧ t = respondWrite (writeBuf s b off bytes)) := by
  have idle : isBusy s = false → s.engine = .idle := by
    intro hb; cases he : s.engine <;> simp_all [isBusy]
  unfold busAccess at h
  split at h
  · rename_i r hr
    have hr := regionOf_eq_reg hr
    unfold accessReg at h
    split at h
    · cases h
    · have hw : a.size = .word := not_not.mp ‹_›
      split at h
      · split at h
        · cases h
        · cases h; exact .inr (.inl ⟨r, _, hr, hw, ‹_›, ‹_›, rfl⟩)
      · cases h; exact .inl ⟨r, hr, hw, Bool.eq_false_of_not_eq_true ‹_›, rfl⟩
  · rename_i b off hb
    obtain ⟨ha, hoff⟩ := regionOf_eq_buf hb
    have hm := bufSize_mod_four s.cfg
    unfold accessBuf at h
    split at h
    · cases h
    · have hi := idle (Bool.eq_false_of_not_eq_true ‹_›)
      split at h
      · unfold accessByte at h
        split at h
        · cases h
          exact .inr (.inr (.inr ⟨hi, ‹_›, b, off, _, ha, by simp only [List.length_cons, List.length_nil]; omega, rfl⟩))
        · split at h
          · cases h
          · cases h; exact .inr (.inr (.inl ⟨hi, Bool.eq_false_of_not_eq_true ‹_›, _, rfl⟩))
      · split at h
        · unfold accessWord at h
          split at h
          · cases h
            exact .inr (.inr (.inr ⟨hi, ‹_›, b, off, _, ha, by simp only [be32Bytes_length]; omega, rfl⟩))
          · split at h
            · cases h
            · cases h; exact .inr (.inr (.inl ⟨hi, Bool.eq_false_of_not_eq_true ‹_›, _, rfl⟩))
        · cases h
      · cases h
      · cases h
  · cases h

/-- A bus access that stops: a bus error of this access, or an unwritten byte of a buffer. -/
theorem busAccess_fault {a : Access} {s : State} {f : Fault} (h : busAccess a s = .fault f) :
    f = .busError a.addr (busErrorState a s) ∨ ∃ b i, f = .unwrittenByte (bufAddr b i) := by
  unfold busAccess at h
  split at h
  · unfold accessReg at h
    split at h
    · cases h; exact .inl rfl
    · split at h
      · split at h
        · cases h; exact .inl rfl
        · cases h
      · cases h
  · unfold accessBuf at h
    split at h
    · cases h; exact .inl rfl
    · split at h
      · unfold accessByte at h
        split at h
        · cases h
        · split at h
          · cases h
            obtain ⟨i, -, rfl, -⟩ := readBuf_eq_error ‹_›
            exact .inr ⟨_, _, rfl⟩
          · cases h
      · split at h
        · unfold accessWord at h
          split at h
          · cases h
          · split at h
            · cases h
              obtain ⟨i, -, rfl, -⟩ := readBuf_eq_error ‹_›
              exact .inr ⟨_, _, rfl⟩
            · cases h
        · cases h; exact .inl rfl
      · cases h; exact .inl rfl
      · cases h; exact .inl rfl
  · cases h; exact .inl rfl

/-- A read of a register answers its value and changes nothing else. -/
theorem busAccess_read32 (r : Reg) (s : State) :
    busAccess (read32 (regOffset r)) s = .next (respondRead (readReg r s) s) := by
  simp [busAccess, read32, accessReg]

/-- A 32-bit write to a register that takes it. -/
theorem busAccess_write {r : Reg} {v : Word} {s u : State} (h : writeReg r v s = some u) :
    busAccess { write := true, size := .word, addr := regOffset r, wdata := v } s = .next (respondWrite u) := by
  simp [busAccess, accessReg, h]

@[simp] theorem isBusy_eq_true {s : State} : isBusy s = true ↔ s.engine = .busy := by simp [isBusy]

@[simp] theorem isBusy_eq_false {s : State} : isBusy s = false ↔ s.engine = .idle := by
  cases h : s.engine <;> simp [isBusy, h]

theorem submit_of_idle {s : State} (w : Word) (h : s.engine = .idle) : submit w s = accept w s := by
  simp [submit, isBusy, h]

theorem submit_of_busy {s : State} (w : Word) (h : s.engine = .busy) :
    submit w s = s.putStatus { s.status with overrun := true } := by
  simp [submit, isBusy, h]

/-- One bit of STATUS, at the concatenation's own width. -/
theorem statusWord_getLsbD (s : State) (i : Nat) :
    (statusWord s).getLsbD i = @BitVec.getLsbD (15 + 1 + 4 + 4 + 4 + 1 + 1 + 1 + 1)
      (0#15 ++ BitVec.ofBool s.status.flagKnown ++ 0#4 ++ rcCode s.status.rc ++ 0#4 ++ BitVec.ofBool s.status.busErr ++
        BitVec.ofBool s.status.overrun ++ BitVec.ofBool s.status.done ++ BitVec.ofBool (isBusy s)) i := rfl

theorem statusWord_busy (s : State) : (statusWord s).getLsbD 0 = isBusy s := by
  rw [statusWord_getLsbD, BitVec.getLsbD_append]
  simp

/-- A host line's access is the access at its offset, whatever BASE. -/
@[simp] theorem hostAccess_eq (a : Access) (s : State) : hostAccess a s = busAccess a s := by simp [hostAccess]

/-- What the host's turn can answer. -/
theorem hostTurn_cases {s t : State} (h : hostTurn s = .next t) :
    (s.program = [] ∧ t = s) ∨
    (∃ a p, (∃ l, s.program = l :: p) ∧ busAccess a (s.putProgram p) = .next t) ∨
    (∃ rest, s.program = .wait :: rest ∧
      ((isBusy s = true ∧ t = respondRead (readReg .status s) s) ∨
       (isBusy s = false ∧ t = (respondRead (readReg .status s) s).putProgram rest))) := by
  unfold hostTurn at h
  split at h
  · cases h; exact .inl ⟨‹_›, rfl⟩
  · exact .inr (.inl ⟨_, _, ⟨_, ‹_›⟩, hostAccess_eq _ _ ▸ h⟩)
  · rename_i rest hp
    rw [hostAccess_eq, busAccess_read32] at h
    refine .inr (.inr ⟨rest, hp, ?_⟩)
    have hb : (respondRead (readReg .status s) s).bus.rdata.getLsbD 0 = isBusy s := statusWord_busy s
    simp only [hb] at h
    split at h <;> cases h
    · exact .inl ⟨‹_›, rfl⟩
    · exact .inr ⟨Bool.eq_false_of_not_eq_true ‹_›, rfl⟩
  · rw [hostAccess_eq] at h
    split at h
    · split at h
      · cases h; exact .inr (.inl ⟨_, _, ⟨_, ‹_›⟩, ‹_›⟩)
      · cases h
    · cases h
    · cases h

/-- What the engine's turn can answer. -/
theorem engineTurn_cases {s t : State} (h : engineTurn s = .next t) :
    (s.engine = .idle ∧ t = s) ∨
    (s.engine = .busy ∧ ∃ i, decode s.latch.w = .ok i ∧ exec i s = .next t) ∨
    (s.engine = .busy ∧ (∃ e, decode s.latch.w = .error e) ∧ t = finish .badCmd s) := by
  unfold engineTurn at h
  split at h
  · rename_i hb
    split at h
    · exact .inr (.inl ⟨by simpa using hb, _, ‹_›, h⟩)
    · cases h; exact .inr (.inr ⟨by simpa using hb, ⟨_, ‹_›⟩, rfl⟩)
  · rename_i hb
    cases h; exact .inl ⟨isBusy_eq_false.mp (Bool.eq_false_of_not_eq_true hb), rfl⟩

/-- What a step can answer: a turn of the host, a turn of the engine, or a hardware reset, from the state with that
turn taken off the schedule. -/
theorem step_cases {s : State} {o : Result} (h : step s = o) :
    ∃ p, (hostTurn (s.putSchedule p) = o ∨ engineTurn (s.putSchedule p) = o ∨
      .next (resetBlock (s.putSchedule p)) = o) := by
  unfold step at h
  split at h
  · rename_i hs
    refine ⟨[], ?_⟩
    have : s.putSchedule [] = s := by cases s; simp_all [State.putSchedule]
    rw [this]
    unfold defaultTurn at h
    split at h
    · exact .inr (.inl h)
    · exact .inl h
  · exact ⟨_, .inl h⟩
  · exact ⟨_, .inr (.inl h)⟩
  · exact ⟨_, .inr (.inr h)⟩

end Sys2Proof.Machine
end

