-- ==== Sys2Proof/Laws/Commands.lean ====
section
/-! SUPPORT. For each command, what its meaning can answer: if it gives a next state, then one of these. -/

namespace Sys2Proof.Machine

theorem execCksum_cases {b : Buf} {s t : State} (h : execCksum b s = .next t) :
    (bufSize s.cfg < s.latch.args.ckOff.toNat + s.latch.args.ckLen.toNat ∧ t = finish .range s) ∨
    (∃ bytes, readBuf s b s.latch.args.ckOff.toNat s.latch.args.ckLen.toNat = .ok bytes ∧
      s.latch.args.ckOff.toNat + s.latch.args.ckLen.toNat ≤ bufSize s.cfg ∧
      t = finish .ok (s.putRes { s.res with cksum := cksum bytes })) := by
  simp only [execCksum] at h
  split at h
  · cases h; exact .inl ⟨‹_›, rfl⟩
  · split at h
    · cases h
    · cases h; exact .inr ⟨_, ‹_›, by omega, rfl⟩

theorem execEncode_cases {s t : State} (h : execEncode s = .next t) :
    (s.cfg.payloadMax < s.latch.args.len.toNat ∧ t = finish .len s) ∨
    (s.latch.args.len.toNat ≤ s.cfg.payloadMax ∧ isFlagCode s.cfg.flags s.latch.args.flag = false ∧ t = finish .flag s) ∨
    (s.latch.args.len.toNat ≤ s.cfg.payloadMax ∧ isFlagCode s.cfg.flags s.latch.args.flag = true ∧
      ∃ frame, readBuf (writeHeader s s.latch.args.seq 0 s.latch.args.flag) .txf 0 (hdrLen + s.latch.args.len.toNat)
          = .ok frame ∧
        t = finish .ok ((writeHeader s s.latch.args.seq (cksum frame) s.latch.args.flag).putRes
          { s.res with cksum := cksum frame, txLen := BitVec.ofNat 11 (hdrLen + s.latch.args.len.toNat) })) := by
  simp only [execEncode] at h
  split at h
  · cases h; exact .inl ⟨‹_›, rfl⟩
  · split at h
    · cases h; exact .inr (.inl ⟨by omega, by simp_all, rfl⟩)
    · split at h
      · cases h
      · cases h; exact .inr (.inr ⟨by omega, by simp_all, _, ‹_›, rfl⟩)

theorem execDecode_cases {s t : State} (h : execDecode s = .next t) :
    (s.latch.args.rxLen.toNat < hdrLen ∧ t = finish .short s) ∨
    (frameMax s.cfg < s.latch.args.rxLen.toNat ∧ t = finish .len s) ∨
    (hdrLen ≤ s.latch.args.rxLen.toNat ∧ s.latch.args.rxLen.toNat ≤ frameMax s.cfg ∧
      ∃ frame, readBuf s .rxf 0 s.latch.args.rxLen.toNat = .ok frame ∧
        ((cksum frame ≠ 0 ∧ t = finish .cksumFail (s.putRes { s.res with cksum := cksum frame })) ∨
         (cksum frame = 0 ∧ t = finish .ok ((s.putRes (decodedFields frame s.res)).putStatus
            { s.status with flagKnown := isFlagCode s.cfg.flags (frame.getD 6 0) })))) := by
  simp only [execDecode] at h
  split at h
  · cases h; exact .inl ⟨‹_›, rfl⟩
  · split at h
    · cases h; exact .inr (.inl ⟨‹_›, rfl⟩)
    · refine .inr (.inr ⟨by omega, by omega, ?_⟩)
      split at h
      · cases h
      · refine ⟨_, ‹_›, ?_⟩
        split at h
        · cases h; exact .inl ⟨‹_›, rfl⟩
        · cases h; exact .inr ⟨not_not.mp ‹_›, rfl⟩

theorem execWinInit_cases {s t : State} (h : execWinInit s = .next t) :
    t = finish .cfg s ∨
    (s.latch.args.cap ≠ 0 ∧ s.latch.args.cap.toNat ≤ s.cfg.capMax ∧ s.latch.args.chunk ≠ 0 ∧
      s.latch.args.chunk.toNat ≤ chunkMax s.cfg ∧
      t = finish .ok ((s.putWin (freshWindow s.latch.args.cap s.latch.args.chunk)).putSlots
        (clearSlots s.latch.args.cap.toNat s.slots))) := by
  simp only [execWinInit] at h
  split at h
  · cases h; exact .inl rfl
  · split at h
    · cases h; exact .inl rfl
    · cases h
      rename_i h1 h2
      simp only [not_or, not_lt] at h1 h2
      exact .inr ⟨h1.1, h1.2, h2.1, h2.2, rfl⟩

/-- A window command that fails a precondition only completes (43_window.md R130). -/
theorem execWinAdd_cases {b : Buf} {s t : State} (h : execWinAdd b s = .next t) :
    (∃ rc, windowCheck true s = some rc ∧ t = finish rc s) ∨
    (windowCheck true s = none ∧ s.win.chunk.toNat < s.latch.args.len.toNat ∧ t = finish .len s) ∨
    (windowCheck true s = none ∧ s.latch.args.len.toNat ≤ s.win.chunk.toNat ∧
      ∃ bytes, readBuf s b hdrLen s.latch.args.len.toNat = .ok bytes ∧
        t = finish .ok (setSlot (reportSlot s (slotIndex s.win s.latch.args.seq) s.latch.args.seq)
          (slotIndex s.win s.latch.args.seq)
          (filledSlot (slotAt s (slotIndex s.win s.latch.args.seq)) s.latch.args.seq s.latch.args.len bytes))) := by
  simp only [execWinAdd] at h
  split at h
  · cases h; exact .inl ⟨_, ‹_›, rfl⟩
  · split at h
    · cases h; exact .inr (.inl ⟨‹_›, ‹_›, rfl⟩)
    · split at h
      · cases h
      · cases h; exact .inr (.inr ⟨‹_›, by omega, _, ‹_›, rfl⟩)

theorem execWinRelease_cases {s t : State} (h : execWinRelease s = .next t) :
    (∃ rc, windowCheck true s = some rc ∧ t = finish rc s) ∨
    (windowCheck true s = none ∧
      t = finish .ok (setSlot (reportSlot s (slotIndex s.win s.latch.args.seq) s.latch.args.seq)
        (slotIndex s.win s.latch.args.seq) (clearSlot (slotAt s (slotIndex s.win s.latch.args.seq))))) := by
  simp only [execWinRelease] at h
  split at h
  · cases h; exact .inl ⟨_, ‹_›, rfl⟩
  · cases h; exact .inr ⟨‹_›, rfl⟩

/-- The state WIN_GET reports from: RES_SLOT and RES_SLOT_SEQ of the slot that `seq` names. -/
abbrev winGetReport (s : State) : State := reportSlot s (slotIndex s.win s.latch.args.seq) s.latch.args.seq

/-- The slot WIN_GET looks up. -/
abbrev winGetSlot (s : State) : Slot := slotAt s (slotIndex s.win s.latch.args.seq)

theorem execWinGet_cases {c : Bool} {s t : State} (h : execWinGet c s = .next t) :
    (∃ rc, windowCheck true s = some rc ∧ t = finish rc s) ∨
    (windowCheck true s = none ∧ slotMatches (winGetSlot s) s.latch.args.seq = false ∧
      t = finish .noMatch (winGetReport s)) ∨
    (windowCheck true s = none ∧ slotMatches (winGetSlot s) s.latch.args.seq = true ∧ c = false ∧
      t = finish .ok ((winGetReport s).putRes { (winGetReport s).res with len := (winGetSlot s).dlen })) ∨
    (windowCheck true s = none ∧ slotMatches (winGetSlot s) s.latch.args.seq = true ∧ c = true ∧
      t = finish .ok (writeBuf ((winGetReport s).putRes { (winGetReport s).res with len := (winGetSlot s).dlen })
        .txf hdrLen (slotData (slotIndex s.win s.latch.args.seq) (winGetSlot s)))) := by
  simp only [execWinGet] at h
  split at h
  · cases h; exact .inl ⟨_, ‹_›, rfl⟩
  · split at h
    · cases h; exact .inr (.inl ⟨‹_›, by simp_all, rfl⟩)
    · cases h
      have hm : slotMatches (winGetSlot s) s.latch.args.seq = true := by simp_all
      cases c
      · exact .inr (.inr (.inl ⟨‹_›, hm, rfl, rfl⟩))
      · exact .inr (.inr (.inr ⟨‹_›, hm, rfl, rfl⟩))

theorem execWinAck_cases {s t : State} (h : execWinAck s = .next t) :
    (∃ rc, windowCheck true s = some rc ∧ t = finish rc s) ∨
    (windowCheck true s = none ∧ t = finish .stale s) ∨ (windowCheck true s = none ∧ t = finish .ahead s) ∨
    (windowCheck true s = none ∧ s.win.lowest.toNat ≤ s.latch.args.seq.toNat ∧
      s.latch.args.seq.toNat ≤ s.win.current.toNat ∧
      t = finish .ok (s.putWin { s.win with lowest := s.latch.args.seq
                                            edge := s.latch.args.seq + s.win.cap.setWidth 32 })) := by
  simp only [execWinAck] at h
  split at h
  · cases h; exact .inl ⟨_, ‹_›, rfl⟩
  · split at h
    · cases h; exact .inr (.inl ⟨‹_›, rfl⟩)
    · split at h
      · cases h; exact .inr (.inr (.inl ⟨‹_›, rfl⟩))
      · cases h; exact .inr (.inr (.inr ⟨‹_›, by omega, by omega, rfl⟩))

theorem execWinAdvance_cases {s t : State} (h : execWinAdvance s = .next t) :
    (∃ rc, windowCheck false s = some rc ∧ t = finish rc s) ∨
    (windowCheck false s = none ∧ t = finish .seqRange s) ∨ (windowCheck false s = none ∧ t = finish .full s) ∨
    (windowCheck false s = none ∧ s.win.current.toNat < seqMax ∧ s.win.current.toNat < s.win.edge.toNat ∧
      t = finish .ok (s.putWin { s.win with current := s.win.current + 1 })) := by
  simp only [execWinAdvance] at h
  split at h
  · cases h; exact .inl ⟨_, ‹_›, rfl⟩
  · split at h
    · cases h; exact .inr (.inl ⟨‹_›, rfl⟩)
    · split at h
      · cases h; exact .inr (.inr (.inl ⟨‹_›, rfl⟩))
      · cases h; exact .inr (.inr (.inr ⟨‹_›, by omega, by omega, rfl⟩))

theorem execWinObserve_cases {s t : State} (h : execWinObserve s = .next t) :
    (∃ rc, windowCheck true s = some rc ∧ t = finish rc s) ∨
    (windowCheck true s = none ∧
      t = finish .ok (s.putWin { s.win with
        hwm := if s.win.hwm.toNat < s.latch.args.seq.toNat then s.latch.args.seq else s.win.hwm })) := by
  simp only [execWinObserve] at h
  split at h
  · cases h; exact .inl ⟨_, ‹_›, rfl⟩
  · cases h; exact .inr ⟨‹_›, rfl⟩

end Sys2Proof.Machine
end

