-- ==== Sys2Proof/Laws/PerInstr.lean ====
section
/-! SUPPORT. Statements about every command, one lemma per constructor of Instr. -/

namespace Sys2Proof.Laws

/-- The "mask" of a command's row in spec/opcode_table.json. -/
def rowMask : Op → Word
  | .cksum | .winAdd | .winGet => 0xFFFFFEFF
  | .nop | .encode | .decode | .winInit | .winRelease | .winAck | .winAdvance | .winObserve => 0xFFFFFFFF

/-- The "match" of a command's row in spec/opcode_table.json. -/
def rowMatch : Op → Word
  | .nop => 0x00000000
  | .cksum => 0x00000001
  | .encode => 0x00000002
  | .decode => 0x00000003
  | .winInit => 0x00000010
  | .winAdd => 0x00000011
  | .winRelease => 0x00000012
  | .winGet => 0x00000013
  | .winAck => 0x00000014
  | .winAdvance => 0x00000015
  | .winObserve => 0x00000016

namespace EncodesItsRow

/-- The word of a well-formed command lies in that command's row of the opcode table and is a legal word. -/
def Statement (i : Instr) : Prop :=
  i.wf = true → encode i &&& rowMask (opOf i) = rowMatch (opOf i) ∧ legalWord (encode i) = true

theorem nop : Statement .nop := fun _ => by decide

theorem cksum (b : Buf) : Statement (.cksum b) := fun _ => by revert b; rintro (_ | _) <;> decide

theorem encode : Statement .encode := fun _ => by decide

theorem decode : Statement .decode := fun _ => by decide

theorem winInit : Statement .winInit := fun _ => by decide

theorem winAdd (b : Buf) : Statement (.winAdd b) := fun _ => by revert b; rintro (_ | _) <;> decide

theorem winRelease : Statement .winRelease := fun _ => by decide

theorem winGet (c : Bool) : Statement (.winGet c) := fun _ => by revert c; decide

theorem winAck : Statement .winAck := fun _ => by decide

theorem winAdvance : Statement .winAdvance := fun _ => by decide

theorem winObserve : Statement .winObserve := fun _ => by decide

end EncodesItsRow

end Sys2Proof.Laws
end

