-- ==== Sys2Proof/Tests/Slice0.lean ====
section
/-! SUPPORT. The model's own tests: well-formedness, decoding, one step of each command on the spec's examples, and a
state that meets the hypotheses of each statement. Expected values come from the spec file each comment names. -/

namespace Sys2Proof.Tests

open Sys2Proof.Machine

/-! ## Helpers -/

/-- The default parameters with 4 window slots. -/
def cfg4 : Config := { Config.defaults with capMax := 4 }

/-- The state after reset with 4 window slots. -/
def base : State := State.resetWith cfg4

/-- Arguments of which only some matter. -/
def args (seq : Word := 0) (flag : Byte := 0) (len : Len := 0) (cap : Word := 0) (chunk : Len := 0) (off : Len := 0)
    (n : Len := 0) (rx : Len := 0) : Args :=
  { seq := seq, flag := flag, len := len, cap := cap, chunk := chunk, ckOff := off, ckLen := n, rxLen := rx }

/-- `s` with the command accepted on these arguments. -/
def pend (s : State) (i : Instr) (a : Args := args) : State :=
  { s with engine := .busy, status := { s.status with done := false }, latch := { w := encode i, args := a }, args := a }

/-- A valid window of 4 slots of at most 100 bytes. -/
def win4 (lowest current hwm : Word := 0) : Window :=
  { cap := 4, chunk := 100, lowest := lowest, current := current, edge := lowest + 4, hwm := hwm, valid := true }

/-- `base` with that window, all slots empty. -/
def opened (lowest current hwm : Word := 0) : State := base.putWin (win4 lowest current hwm)

/-- Slot 1 holds sequence number 5 with the data AA BB. -/
def held : State := setSlot opened 1 { seq := 5, occ := true, dlen := 2, data := [(0, 0xAA), (1, 0xBB)] }

/-- The frame of 42_codec.md R120's example. -/
def frame : List Byte := [0x00, 0x00, 0x00, 0x00, 0xB9, 0x7B, 0x04, 0x41, 0x42, 0x43]

/-- A field of the next state, if there is one. -/
def after {α : Type} (o : Result) (f : State → α) : Option α :=
  match o with
  | .next t => some (f t)
  | .fault _ => none
  | .refused _ => none

/-- A frame buffer's first `n` bytes. -/
def bytes (b : Buf) (off n : Nat) (s : State) : List (Option Byte) := (List.range n).map fun i => s.byte? b (off + i)

/-- The offset of a bus error and the BUSERR bit it leaves. -/
def busErrorAt : Result → Option (BusOffset × Bool)
  | .fault (.busError a t) => some (a, t.status.busErr)
  | .fault _ => none
  | .next _ => none
  | .refused _ => none

/-! ## Well-formedness: an ill-formed term for each check (00_scope.md R8, 30_encoding.md R85, R93) -/

theorem test_wf_defaults : Config.defaults.wf = true := by decide

theorem test_wf_refuses_cap_zero : (Config.wf { Config.defaults with capMax := 0 }) = false := by decide

theorem test_wf_refuses_cap_above_65536 : (Config.wf { Config.defaults with capMax := 65537 }) = false := by decide

theorem test_wf_refuses_payload_zero : (Config.wf { Config.defaults with payloadMax := 0 }) = false := by decide

theorem test_wf_refuses_payload_above_2040 : (Config.wf { Config.defaults with payloadMax := 2041 }) = false := by decide

theorem test_wf_refuses_equal_flag_codes :
    (Config.wf { Config.defaults with flags := { FlagCodes.defaults with eof := 0x01 } }) = false := by decide

theorem test_wf_bounds_are_legal : (Config.wf { Config.defaults with capMax := 65536, payloadMax := 2040 }) = true ∧
    (Config.wf { Config.defaults with capMax := 1, payloadMax := 1 }) = true := by decide

theorem test_legalWord_refuses_rsv : legalWord 0x00010000 = false := by decide

theorem test_legalWord_refuses_op : legalWord 0x00000004 = false := by decide

theorem test_legalWord_refuses_option : legalWord 0x00000202 = false ∧ legalWord 0x00000301 = false := by decide

/-! ## Decoding: each word written out from 30_encoding.md R90 to R92, RSV = 0, OPT, OP -/

theorem test_decode_nop : decode 0b00000000000000000000000000000000 = .ok .nop := by decide

theorem test_decode_cksum : decode 0b00000000000000000000000000000001 = .ok (.cksum .txf) ∧
    decode 0b00000000000000000000000100000001 = .ok (.cksum .rxf) := by decide

theorem test_decode_encode : decode 0b00000000000000000000000000000010 = .ok .encode := by decide

theorem test_decode_decode : decode 0b00000000000000000000000000000011 = .ok .decode := by decide

theorem test_decode_winInit : decode 0b00000000000000000000000000010000 = .ok .winInit := by decide

theorem test_decode_winAdd : decode 0b00000000000000000000000000010001 = .ok (.winAdd .txf) ∧
    decode 0b00000000000000000000000100010001 = .ok (.winAdd .rxf) := by decide

theorem test_decode_winRelease : decode 0b00000000000000000000000000010010 = .ok .winRelease := by decide

theorem test_decode_winGet : decode 0b00000000000000000000000000010011 = .ok (.winGet false) ∧
    decode 0b00000000000000000000000100010011 = .ok (.winGet true) := by decide

theorem test_decode_winAck : decode 0b00000000000000000000000000010100 = .ok .winAck := by decide

theorem test_decode_winAdvance : decode 0b00000000000000000000000000010101 = .ok .winAdvance := by decide

theorem test_decode_winObserve : decode 0b00000000000000000000000000010110 = .ok .winObserve := by decide

theorem test_decode_illegal : decode 0x00010000 = .error .reservedBits ∧ decode 0x00000017 = .error .unassignedOp ∧
    decode 0x00000202 = .error .reservedOption ∧ decode 0x00000211 = .error .reservedOption := by decide

theorem test_decodeTableWord : decodeTableWord 32 0x113 = some (.winGet true) ∧ decodeTableWord 32 0x04 = none ∧
    decodeTableWord 8 0x13 = some (.winGet false) := by decide

/-- The word placed by withFetchWord is the one the very next step runs (WIN_INIT with capacity 0 finishes CFG). -/
theorem test_withFetchWord_runs : after (step (State.reset.withFetchWord 32 0x10)) (readReg .status) = some 0x702 := by
  decide

/-! ## One step of each command -/

/-- 40_sequencer.md R104, example. -/
theorem test_nop : after (step (pend base .nop)) (readReg .status) = some 0x00000002 := by decide

/-- 41_checksum.md R111, example: 00 01 F2 03 gives 0x0DFB. -/
theorem test_cksum : after (step (pend (writeBuf base .txf 0 [0x00, 0x01, 0xF2, 0x03]) (.cksum .txf) (args (n := 4))))
    (readReg .resCksum) = some 0x0DFB := by decide

/-- 41_checksum.md R111, corner case: the one byte AB gives 0x54FF, here at an odd offset of RXF. -/
theorem test_cksum_odd : after (step (pend (writeBuf base .rxf 5 [0xAB]) (.cksum .rxf) (args (off := 5) (n := 1))))
    (readReg .resCksum) = some 0x54FF := by decide

/-- 42_codec.md R120, example. -/
theorem test_encode : after (step (pend (writeBuf base .txf 7 [0x41, 0x42, 0x43]) .encode (args (flag := 4) (len := 3))))
    (fun t => (bytes .txf 0 10 t, readReg .resCksum t, readReg .txLen t)) =
    some (frame.map some, 0xB97B, 10) := by decide

/-- 95_test_vectors.md S6: sequence number 0xFFFFFFFF, flag 9, no payload. -/
theorem test_encode_header_only : after (step (pend base .encode (args (seq := 0xFFFFFFFF) (flag := 9))))
    (bytes .txf 0 7) = some ([0xFF, 0xFF, 0xFF, 0xFF, 0xF6, 0xFF, 0x09].map some) := by decide

/-- 42_codec.md R121, example. -/
theorem test_decode_accepts : after (step (pend (writeBuf base .rxf 0 frame) .decode (args (rx := 10))))
    (fun t => (readReg .status t, readReg .resFlag t, readReg .resLen t)) = some (0x00010002, 4, 3) := by decide

/-- 42_codec.md R121, example: bit 0 of byte 8 flipped. -/
theorem test_decode_drops : after (step (pend (writeBuf base .rxf 0 (flipBit frame 8 0)) .decode (args (rx := 10))))
    (fun t => (readReg .status t, readReg .resCksum t)) = some (0x00000102, 0xFEFF) := by decide

/-- 43_window.md R131, example. -/
theorem test_winInit : after (step (pend base .winInit (args (cap := 4) (chunk := 100)))) State.win = some (win4) := by
  decide

/-- 95_test_vectors.md P4: `winit 1, 1401` finishes CFG. -/
theorem test_winInit_cfg : after (step (pend base .winInit (args (cap := 1) (chunk := 1401)))) (readReg .status) =
    some 0x00000702 := by decide

/-- 43_window.md R132, example. -/
theorem test_winAdd : after (step (pend (writeBuf opened .rxf 7 [0xAA, 0xBB]) (.winAdd .rxf) (args (seq := 5) (len := 2))))
    (fun t => (slotAt t 1, readReg .resSlot t, readReg .resSlotSeq t)) =
    some (slotAt held 1, 0x00000001, 0xFFFFFFFF) := by decide

/-- 43_window.md R132, corner case: a displaced occupant, OCC 1 and MATCH 0. -/
theorem test_winAdd_displaces : after (step (pend held (.winAdd .txf) (args (seq := 9))))
    (fun t => (readReg .resSlot t, readReg .resSlotSeq t)) = some (0x00010001, 5) := by decide

/-- 43_window.md R133, example. -/
theorem test_winRelease : after (step (pend held .winRelease (args (seq := 5))))
    (fun t => (readReg .resSlot t, readReg .resSlotSeq t, (slotAt t 1).seq, (slotAt t 1).occ)) =
    some (0x00030001, 5, 0xFFFFFFFF, false) := by decide

/-- 43_window.md R134, example: COPY of the slot that holds 5. -/
theorem test_winGet_copy : after (step (pend held (.winGet true) (args (seq := 5))))
    (fun t => (readReg .resSlot t, readReg .resLen t, bytes .txf 7 2 t)) =
    some (0x00030001, 2, [some 0xAA, some 0xBB]) := by decide

/-- 43_window.md R134, example: the slot holds 5 and not 1. -/
theorem test_winGet_noMatch : after (step (pend held (.winGet true) (args (seq := 1))))
    (fun t => (readReg .status t, readReg .resSlot t, readReg .resSlotSeq t)) = some (0x00000902, 0x00010001, 5) := by
  decide

/-- 43_window.md R136, example. -/
theorem test_winAck : after (step (pend (opened 0 3) .winAck (args (seq := 2))))
    (fun t => (readReg .winLowest t, readReg .winEdge t)) = some (2, 6) := by decide

/-- 43_window.md R136, example: 4 is beyond current. -/
theorem test_winAck_ahead : after (step (pend (opened 0 3) .winAck (args (seq := 4)))) (readReg .status) =
    some 0x00000B02 := by decide

/-- 43_window.md R137, example. -/
theorem test_winAdvance : after (step (pend (opened 0 3) .winAdvance)) (readReg .winCurrent) = some 4 := by decide

/-- 43_window.md R137, example: the window is full. -/
theorem test_winAdvance_full : after (step (pend (opened 0 4) .winAdvance))
    (fun t => (readReg .status t, readReg .winCurrent t)) = some (0x00000C02, 4) := by decide

/-- 43_window.md R138, example. -/
theorem test_winObserve : after (step (pend opened .winObserve (args (seq := 2)))) (readReg .winHwm) = some 2 := by decide

/-- 43_window.md R138, example: 1 after 2 leaves 2. -/
theorem test_winObserve_below : after (step (pend (opened 0 0 2) .winObserve (args (seq := 1)))) (readReg .winHwm) =
    some 2 := by decide

/-! ## The bus -/

/-- 20_memory.md R67: a 32-bit write stores its bytes most significant first. -/
theorem test_bus_big_endian : after (busAccess (wordAccess true .rxf 4 0xB7B1044C) base) (bytes .rxf 4 4) =
    some ([0xB7, 0xB1, 0x04, 0x4C].map some) := by decide

/-- 20_memory.md R63, R64: a 16-bit access, a misaligned one, and a write to ID are bus errors. -/
theorem test_bus_errors :
    busErrorAt (busAccess { write := false, size := .half, addr := 0x1000, wdata := 0 } base) = some (0x1000, true) ∧
    busErrorAt (busAccess { write := true, size := .word, addr := 0x1002, wdata := 0 } base) = some (0x1002, true) ∧
    busErrorAt (busAccess (regWrite .id 0) base) = some (0x0000, true) := by decide

/-- 10_state.md R29: ARG_LEN keeps 11 bits (95_test_vectors.md P4). -/
theorem test_bus_argument_mask : after (busAccess (regWrite .argLen 0xFFF) base) (readReg .argLen) = some 0x7FF := by decide

/-- 30_encoding.md R95: a line's access goes to BASE + off, here of a block at 0x40000000 whose bus_addr is off. -/
theorem test_host_address :
    hostAddress { cfg4 with base := 0x40000000 } 0x2004 = 0x40002004 ∧
    portOffset { cfg4 with base := 0x40000000 } 0x40002004 = 0x2004 := by decide

/-- 70_reset_and_hazards.md R171: IE of the same write does not survive SRST. -/
theorem test_soft_reset : after (busAccess (regWrite .ctrl 3) held) (fun t => (readReg .ctrl t, readReg .winStat t)) =
    some (0, 0) := by decide

/-- 20_memory.md R65: a buffer write while busy. -/
theorem test_busy_buffer : busErrorAt (busAccess (byteAccess true .txf 0 1) (pend base .nop)) = some (0x1000, true) := by
  decide

/-! ## Witnesses: for each statement with hypotheses, concrete states and operands that meet them -/

/-- A pending command word, legal or not. -/
def pendWord (w : Word) : State := { pend base .nop with latch := { w := w, args := args } }

theorem engineMoves_self (s : State) (h : s.schedule = []) : EngineMoves s s := .inl ⟨h, rfl⟩

theorem witness_DecodeAndEncodeAgree : (Instr.winGet true).wf = true ∧ encode (.winGet true) = 0x00000113 := by decide

/-- One illegal word for each of the three cases of R93 (both forms of the third), and two legal ones. -/
theorem witness_IllegalWordsFinishBadCmd :
    (∀ w ∈ ([0x00010000, 0x00000017, 0x00000211, 0x00000116, 0x00000016, 0x00000113] : List Word),
      (pendWord w).engine = .busy ∧ EngineMoves (pendWord w) (pendWord w)) ∧
    (pendWord 0x00010000).latch.w.extractLsb' 16 16 ≠ 0 ∧
    (pendWord 0x00000017).latch.w.extractLsb' 0 8 ∉
      ([0x00, 0x01, 0x02, 0x03, 0x10, 0x11, 0x12, 0x13, 0x14, 0x15, 0x16] : List Byte) ∧
    (pendWord 0x00000211).latch.w.extractLsb' 8 8 &&& 0xFE ≠ 0 ∧ (pendWord 0x00000116).latch.w.extractLsb' 8 8 ≠ 0 ∧
    decode 0x00000016 = .ok .winObserve ∧ decode 0x00000113 = .ok (.winGet true) :=
  ⟨fun _ _ => ⟨rfl, engineMoves_self _ rfl⟩, by decide⟩

theorem witness_StepRunsTheLatchedCommand :
    ((pend base .nop).engine = .busy ∧ EngineMoves (pend base .nop) (pend base .nop) ∧
      decode (pend base .nop).latch.w = .ok .nop) ∧
    EngineMoves { pend base .nop with schedule := [.engine, .host] } { pend base .nop with schedule := [.host] } ∧
    (base.putSchedule [.engine, .host]).engine = .idle ∧
    (base.putSchedule [.engine, .host]).schedule = .engine :: [.host] :=
  ⟨⟨rfl, engineMoves_self _ rfl, rfl⟩, .inr ⟨_, rfl, rfl⟩, rfl, rfl⟩

/-- No line; an access; a wait, busy (the host is scheduled) and idle; an expect that holds, one that fails, one that
stops. -/
theorem witness_StepPerformsTheHostsLine :
    (HostMoves base base ∧ base.program = []) ∧
    (let s := base.putProgram [wrReg .ctrl 1]
     HostMoves s s ∧ s.program = wrReg .ctrl 1 :: []) ∧
    (let u := (pend base .nop).putProgram [.wait]
     HostMoves (u.putSchedule [.host]) u ∧ u.engine = .busy ∧ u.program = .wait :: []) ∧
    (let u := base.putProgram [.wait]
     HostMoves u u ∧ u.engine = .idle ∧ u.program = .wait :: []) ∧
    (let u := base.putProgram [.expect 0x000 0x04640003]
     HostMoves u u ∧ u.program = .expect 0x000 0x04640003 :: [] ∧
       ∃ t, busAccess (read32 0x000) { u with program := [] } = .next t ∧ t.bus.rdata = 0x04640003) ∧
    (let u := base.putProgram [.expect 0x000 0]
     HostMoves u u ∧ ∃ t, busAccess (read32 0x000) { u with program := [] } = .next t ∧ t.bus.rdata ≠ 0) ∧
    (let u := base.putProgram [.expect 0x07C 0]
     HostMoves u u ∧ ∃ f, busAccess (read32 0x07C) { u with program := [] } = .fault f) :=
  ⟨⟨.inl ⟨rfl, rfl, rfl⟩, rfl⟩, ⟨.inl ⟨rfl, rfl, rfl⟩, rfl⟩, ⟨.inr ⟨[], rfl, rfl⟩, rfl, rfl⟩,
    ⟨.inl ⟨rfl, rfl, rfl⟩, rfl, rfl⟩, ⟨.inl ⟨rfl, rfl, rfl⟩, rfl, _, rfl, rfl⟩,
    ⟨.inl ⟨rfl, rfl, rfl⟩, _, rfl, by decide⟩, .inl ⟨rfl, rfl, rfl⟩, _, rfl⟩

theorem witness_CmdWriteWhileIdleIsAccepted : base.engine = .idle := rfl

theorem witness_CmdWriteWhileBusyOnlySetsOverrun : (pend base .nop).engine = .busy := rfl

theorem witness_EveryCompletionSetsDoneAndIdle : ∃ t, exec .winAdvance (opened 0 3) = .next t ∧ t.status.rc = .ok :=
  ⟨_, rfl, rfl⟩

/-- A refusal, a CKSUM_FAIL and a NOMATCH. -/
theorem witness_FailedCommandsChangeNothingElse :
    (∃ t, exec .winAdvance base = .next t ∧ t.status.rc ≠ .ok) ∧
    after (exec .decode (pend (writeBuf base .rxf 0 (flipBit frame 8 0)) .decode (args (rx := 10))))
      (fun t => t.status.rc) = some .cksumFail ∧
    after (exec (.winGet true) (pend held (.winGet true) (args (seq := 1)))) (fun t => t.status.rc) = some .noMatch :=
  ⟨⟨_, rfl, by decide⟩, by decide, by decide⟩

/-- A command that completes, and one that stops on an unwritten byte. -/
theorem witness_PendingCommandsComplete :
    ((pend base .nop).engine = .busy ∧ EngineMoves (pend base .nop) (pend base .nop)) ∧
    step (pend base (.cksum .txf) (args (n := 1))) = .fault (.unwrittenByte 0x1000) ∧ base.byte? .txf 0 = none :=
  ⟨⟨rfl, engineMoves_self _ rfl⟩, rfl, rfl⟩

/-- With no schedule, and with the engine and then the host scheduled. -/
theorem witness_WaitEndsAfterCompletion :
    let s := { pend base .nop with program := [.wait, rd32 0x04C] }
    (s.engine = .busy ∧ EngineMoves s s ∧ s.program = .wait :: [rd32 0x04C] ∧
      ∃ t, step s = .next t ∧ HostMoves t t) ∧
    EngineMoves (s.putSchedule [.engine, .host]) (s.putSchedule [.host]) ∧
      ∃ t w, step (s.putSchedule [.engine, .host]) = .next t ∧ HostMoves t w :=
  ⟨⟨rfl, .inl ⟨rfl, rfl⟩, rfl, _, rfl, .inl ⟨rfl, rfl, rfl⟩⟩, .inr ⟨_, rfl, rfl⟩, _, _, rfl, .inr ⟨[], rfl, rfl⟩⟩

theorem witness_HostCannotDisturbPendingCommand :
    (pend base .nop).engine = .busy ∧
    ¬((regWrite .ctrl 1).addr = regOffset .ctrl ∧ (regWrite .ctrl 1).write = true ∧
      (regWrite .ctrl 1).wdata.getLsbD 1 = true) ∧ ∃ t, busAccess (regWrite .ctrl 1) (pend base .nop) = .next t :=
  ⟨rfl, by decide, _, rfl⟩

theorem witness_ArgumentWritesCommuteWithCompletion :
    isArgReg .rxLen = true ∧ (1#32).getLsbD 1 = false ∧ ∃ t, exec .nop (pend base .nop) = .next t :=
  ⟨rfl, rfl, _, rfl⟩

theorem witness_DoneClearAtCompletionDependsOnOrder :
    (pend base .nop).engine = .busy ∧ (pend base .nop).status.done = false := ⟨rfl, rfl⟩

/-- The last byte and the last word of RXF are legal, the byte after them and the word across their end are not. -/
theorem witness_ExactlyIllegalAccessesAreBusErrors :
    base.cfg.wf = true ∧ LegalAccess base (byteAccess true .rxf 1407 0) ∧ LegalAccess base (wordAccess true .rxf 1404 0) ∧
    LegalAccess base (regWrite .rxLen 0) ∧ ¬ LegalAccess base (regWrite .winStat 0) ∧
    ¬ LegalAccess base (byteAccess true .txf 1408 0) := by
  refine ⟨by decide, .inr ⟨rfl, .rxf, 1407, by decide, by decide, .inl rfl⟩,
    .inr ⟨rfl, .rxf, 1404, by decide, by decide, .inr ⟨rfl, by decide⟩⟩, .inl ⟨rfl, .rxLen, rfl, fun _ => rfl⟩, ?_, ?_⟩
  · rintro (⟨-, r, hr, hw⟩ | ⟨-, b, i, -, ha, h⟩)
    · cases r <;> first | exact absurd hr (by decide) | exact absurd (hw rfl) (by decide)
    · have : (0x078 : Nat) = bufAddr b i := ha
      cases b <;> simp only [bufAddr, bufBase] at this <;> omega
  · rintro (⟨h, -⟩ | ⟨-, b, i, hi, ha, -⟩)
    · cases h
    · have h1 : (0x1580 : Nat) = bufAddr b i := ha
      have h2 : i < 1408 := hi
      cases b <;> simp only [bufAddr, bufBase] at h1 <;> omega

/-- The first and the last byte of each buffer. -/
theorem witness_BufferAccessWhileBusyIsBusError :
    base.cfg.wf = true ∧ (pend base .nop).engine = .busy ∧ InBuffer base.cfg 0x1000 ∧ InBuffer base.cfg 0x157F ∧
    InBuffer base.cfg 0x2000 ∧ InBuffer base.cfg 0x257F ∧ ¬ InBuffer base.cfg 0x1580 ∧ ¬ InBuffer base.cfg 0x2580 ∧
    regWritable .rxLen = true := by decide

theorem witness_ReadsHaveNoSideEffect : (read32 0x010).write = false ∧ ∃ t, busAccess (read32 0x010) base = .next t :=
  ⟨rfl, _, rfl⟩

theorem witness_RegisterReadsAnswerTheirFields : held.cfg.wf = true := by decide

theorem witness_CtrlWriteSetsOnlyEnable : (0xFFFFFFFD#32).getLsbD 1 = false ∧ (0#32).getLsbD 1 = false := by decide

/-- The first and the last word of a buffer, for the statements on 32-bit writes. -/
theorem witness_WordWritesAreReadBackBigEndian :
    base.cfg.wf = true ∧ base.engine = .idle ∧ 0 < bufSize base.cfg ∧ 1404 < bufSize base.cfg ∧ 1404 % 4 = 0 := by decide

theorem witness_ByteWritesAreReadBack : base.cfg.wf = true ∧ base.engine = .idle ∧ 1407 < bufSize base.cfg := by decide

theorem witness_WordWriteIsFourByteWrites :
    base.cfg.wf = true ∧ base.engine = .idle ∧ 1404 < bufSize base.cfg ∧ 1404 % 4 = 0 := by decide

theorem witness_ArgumentRegistersKeepTheirFieldBits : isArgReg .argSeq = true ∧ isArgReg .rxLen = true := ⟨rfl, rfl⟩

theorem witness_ReservedBitsReadZero : base.cfg.wf = true := by decide

theorem witness_ParametersAreConstant : ∃ t, step (pend base .nop) = .next t := ⟨_, rfl⟩

/-- Each clause at the end of its range, with an unwritten byte. -/
theorem witness_ReadingUnwrittenBytesFaults :
    base.cfg.wf = true ∧ base.engine = .idle ∧ (∃ i, i < 1 ∧ base.byte? .rxf (1407 + i) = none) ∧
    (∃ i, i < 4 ∧ base.byte? .rxf (1404 + i) = none) ∧
    (let a := (pend base (.cksum .txf) (args (off := 1407) (n := 1))).latch.args
     a.ckOff.toNat + a.ckLen.toNat ≤ bufSize base.cfg ∧ ∃ i, i < a.ckLen.toNat ∧ base.byte? .txf (1407 + i) = none) ∧
    (let a := (pend base .encode (args (flag := 4) (len := 1400))).latch.args
     a.len.toNat ≤ base.cfg.payloadMax ∧ IsFlagByte base.cfg a.flag ∧
       ∃ i, i < a.len.toNat ∧ base.byte? .txf (7 + i) = none) ∧
    (∀ n ∈ [(7 : Len), 1407], let a := (pend base .decode (args (rx := n))).latch.args
     7 ≤ a.rxLen.toNat ∧ a.rxLen.toNat ≤ 7 + base.cfg.payloadMax ∧
       ∃ i, i < a.rxLen.toNat ∧ base.byte? .rxf (0 + i) = none) ∧
    (let s := pend opened (.winAdd .rxf) (args (seq := 0x7FFFFFFF) (len := 100))
     s.win.valid = true ∧ s.latch.args.seq.toNat ≤ seqMax ∧ s.latch.args.len.toNat ≤ s.win.chunk.toNat ∧
       ∃ i, i < s.latch.args.len.toNat ∧ s.byte? .rxf (7 + i) = none) :=
  ⟨by decide, rfl, ⟨0, by decide, rfl⟩, ⟨3, by decide, rfl⟩, ⟨by decide, 0, by decide, rfl⟩,
    ⟨by decide, ⟨.data, rfl⟩, 1399, by decide, rfl⟩,
    fun n hn => by
      simp only [List.mem_cons, List.not_mem_nil, or_false] at hn
      rcases hn with rfl | rfl <;> exact ⟨by decide, by decide, 6, by decide, rfl⟩,
    ⟨by decide, by decide, by decide, 99, by decide, rfl⟩⟩

theorem witness_HardwareResetGivesResetValues :
    let s := { pend held .nop with schedule := [.hardReset, .host] }
    s.cfg.wf = true ∧ s.schedule = .hardReset :: [.host] := by decide

theorem witness_SoftResetIsAReset : (pend held .nop).cfg.wf = true ∧ (3#32).getLsbD 1 = true := by decide

theorem witness_ResetMeetsTheInvariant : cfg4.wf = true ∧ Config.defaults.wf = true := by decide

theorem witness_IrqFollowsDoneAndEnable :
    (2#32).getLsbD 1 = true ∧ base.engine = .idle ∧ (pend base .nop).engine = .busy ∧
    ((0#32).getLsbD 1 = false ∧ (0#32).getLsbD 0 = false) ∧ ((1#32).getLsbD 1 = false ∧ (1#32).getLsbD 0 = true) ∧
    (finish .ok base).status.done = true ∧ ∃ t, busAccess (regWrite .id 0) base = .fault (.busError 0 t) :=
  ⟨rfl, rfl, rfl, ⟨rfl, rfl⟩, ⟨rfl, rfl⟩, rfl, _, rfl⟩

/-- A completion with IE = 1, and a write of IE = 1 while DONE stands. -/
theorem witness_IrqRisesOnlyAtCompletionOrEnable :
    (∃ t, step ((pend base .nop).putIe true) = .next t ∧ irq ((pend base .nop).putIe true) = false ∧ irq t = true) ∧
    ∃ t, step ((finish .ok base).putProgram [wrReg .ctrl 1]) = .next t ∧
      irq ((finish .ok base).putProgram [wrReg .ctrl 1]) = false ∧ irq t = true :=
  ⟨⟨_, rfl, rfl, rfl⟩, _, rfl, rfl, rfl⟩

/-- A range that ends at byte 1407, and one that passes it. -/
theorem witness_CksumReportsTheRangeChecksum :
    (let s := pend (writeBuf base .txf 1400 [1, 2, 3, 4, 5, 6, 7, 8]) (.cksum .txf) (args (off := 1400) (n := 8))
     s.latch.args.ckOff.toNat + s.latch.args.ckLen.toNat ≤ bufSize s.cfg ∧
       [1#8, 2, 3, 4, 5, 6, 7, 8].length = s.latch.args.ckLen.toNat ∧
       HoldsBytes s .txf s.latch.args.ckOff.toNat [1, 2, 3, 4, 5, 6, 7, 8]) ∧
    (let s := pend base (.cksum .txf) (args (off := 1400) (n := 9))
     bufSize s.cfg < s.latch.args.ckOff.toNat + s.latch.args.ckLen.toNat) := by decide

theorem isFlagByte_data : IsFlagByte cfg4 4 := ⟨.data, rfl⟩

/-- The first payload length refused, a byte that is no flag code, and a payload in place. -/
theorem witness_EncodeBuildsTheFrame :
    (let s := pend base .encode (args (flag := 4) (len := 1401))
     s.cfg.wf = true ∧ s.cfg.payloadMax < s.latch.args.len.toNat) ∧
    (let s := pend base .encode (args (flag := 0) (len := 1400))
     s.latch.args.len.toNat ≤ s.cfg.payloadMax ∧ ¬ IsFlagByte s.cfg s.latch.args.flag) ∧
    (let s := pend (writeBuf base .txf 7 [0x41, 0x42, 0x43]) .encode (args (flag := 4) (len := 3))
     s.cfg.wf = true ∧ s.latch.args.len.toNat ≤ s.cfg.payloadMax ∧ [0x41#8, 0x42, 0x43].length = s.latch.args.len.toNat ∧
       HoldsBytes s .txf 7 [0x41, 0x42, 0x43] ∧ IsFlagByte s.cfg s.latch.args.flag) := by
  refine ⟨by decide, ⟨by decide, ?_⟩, by decide, by decide, by decide, by decide, isFlagByte_data⟩
  rintro ⟨f, hf⟩
  cases f <;> exact absurd hf (by decide)

theorem witness_EncodeBuildsTheFrame_at_the_ends :
    (let s := pend base .encode (args (seq := 0xFFFFFFFF) (flag := 9))
     s.latch.args.len.toNat = 0 ∧ HoldsBytes s .txf 7 [] ∧ IsFlagByte s.cfg s.latch.args.flag) ∧
    (pend base .encode (args (len := 1400))).latch.args.len.toNat ≤ base.cfg.payloadMax :=
  ⟨⟨by decide, by decide, .eof, rfl⟩, by decide⟩

/-- The lengths where the clauses meet, a frame that verifies and one that does not. -/
theorem witness_DecodeAcceptsFramesThatVerify :
    (let s := pend base .decode (args (rx := 6))
     s.cfg.wf = true ∧ s.latch.args.rxLen.toNat < 7) ∧
    (let s := pend base .decode (args (rx := 1408))
     7 + s.cfg.payloadMax < s.latch.args.rxLen.toNat) ∧
    (let s := pend (writeBuf base .rxf 0 frame) .decode (args (rx := 10))
     s.cfg.wf = true ∧ 7 ≤ s.latch.args.rxLen.toNat ∧ s.latch.args.rxLen.toNat ≤ 7 + s.cfg.payloadMax ∧
       frame.length = s.latch.args.rxLen.toNat ∧ HoldsBytes s .rxf 0 frame ∧ cksum frame = 0) ∧
    (let f := flipBit frame 8 0
     let s := pend (writeBuf base .rxf 0 f) .decode (args (rx := 10))
     f.length = s.latch.args.rxLen.toNat ∧ HoldsBytes s .rxf 0 f ∧ cksum f ≠ 0) := by decide

/-- 95_test_vectors.md, program P3: the shortest frame, header only. -/
theorem witness_DecodeAcceptsFramesThatVerify_shortest :
    let f : List Byte := [0x00, 0x00, 0x00, 0x03, 0xF6, 0xFC, 0x09]
    let s := pend (writeBuf base .rxf 0 f) .decode (args (rx := 7))
    7 ≤ s.latch.args.rxLen.toNat ∧ f.length = s.latch.args.rxLen.toNat ∧ HoldsBytes s .rxf 0 f ∧ cksum f = 0 ∧
    (pend base .decode (args (rx := 1407))).latch.args.rxLen.toNat ≤ 7 + base.cfg.payloadMax := by decide

theorem witness_FlagKnownIsWrittenOnlyByDecode :
    after (exec .decode (pend (writeBuf base .rxf 0 frame) .decode (args (rx := 10)))) (fun t => t.status.rc) = some .ok ∧
    after (exec .nop base) (fun t => t.status.rc) = some .ok := by decide

/-- No window; a window with the first sequence number it refuses. -/
theorem witness_WindowPreconditionsComeFirst :
    (pend base .winObserve).win.valid = false ∧
    (let s := pend opened .winObserve (args (seq := 0x80000000))
     s.win.valid = true ∧ seqMax < s.latch.args.seq.toNat) := by decide

/-- Capacities and chunk sizes where the clauses meet (CAP_MAX is 4 here), taken and refused. -/
theorem witness_WinInitMakesAnEmptyWindow :
    (∀ a ∈ [args (cap := 1) (chunk := 1), args (cap := 4) (chunk := 1400)],
      let s := pend base .winInit a
      s.cfg.wf = true ∧ 1 ≤ s.latch.args.cap.toNat ∧ s.latch.args.cap.toNat ≤ s.cfg.capMax ∧
        1 ≤ s.latch.args.chunk.toNat ∧ s.latch.args.chunk.toNat ≤ s.cfg.payloadMax) ∧
    (∀ a ∈ [args (chunk := 1), args (cap := 5) (chunk := 1), args (cap := 1), args (cap := 1) (chunk := 1401)],
      let s := pend base .winInit a
      s.cfg.wf = true ∧ (s.latch.args.cap.toNat = 0 ∨ s.cfg.capMax < s.latch.args.cap.toNat ∨
        s.latch.args.chunk.toNat = 0 ∨ s.cfg.payloadMax < s.latch.args.chunk.toNat)) := by decide

/-- The largest sequence number with data in place, and the first length a window refuses. -/
theorem witness_WinAddStoresInTheSlotOfItsSequence :
    (let s := pend (writeBuf opened .rxf 7 [0xAA, 0xBB]) (.winAdd .rxf) (args (seq := 0x7FFFFFFF) (len := 2))
     s.win.valid = true ∧ s.latch.args.seq.toNat ≤ seqMax ∧ s.latch.args.len.toNat ≤ s.win.chunk.toNat ∧
       [0xAA#8, 0xBB].length = s.latch.args.len.toNat ∧ HoldsBytes s .rxf 7 [0xAA, 0xBB]) ∧
    (let s := pend opened (.winAdd .txf) (args (seq := 0x7FFFFFFF) (len := 101))
     s.win.valid = true ∧ s.latch.args.seq.toNat ≤ seqMax ∧ s.win.chunk.toNat < s.latch.args.len.toNat) ∧
    (pend opened (.winAdd .txf) (args (len := 100))).latch.args.len.toNat ≤ opened.win.chunk.toNat := by decide

theorem witness_WinReleaseEmptiesTheSlot :
    let s (n : Word) := pend held .winRelease (args (seq := n))
    (s 5).win.valid = true ∧ (s 5).latch.args.seq.toNat ≤ seqMax ∧ (s 0x7FFFFFFF).latch.args.seq.toNat ≤ seqMax := by
  decide

/-- A slot that holds 5: the data for 5, no match for 1 (another number) and for 2 (an empty slot). -/
theorem witness_WinGetReportsAndCopiesTheSlot :
    (let s := pend held (.winGet true) (args (seq := 5))
     let x := slotAt s (s.latch.args.seq.toNat % s.win.cap.toNat)
     s.win.valid = true ∧ s.latch.args.seq.toNat ≤ seqMax ∧ x.occ = true ∧ x.seq = s.latch.args.seq ∧
       [0xAA#8, 0xBB#8].length = x.dlen.toNat ∧
       ∀ i, (h : i < [0xAA#8, 0xBB#8].length) → Memory.read? x.data i = some [0xAA#8, 0xBB#8][i]) ∧
    (let s := pend held (.winGet true) (args (seq := 1))
     let x := slotAt s (s.latch.args.seq.toNat % s.win.cap.toNat)
     s.win.valid = true ∧ s.latch.args.seq.toNat ≤ seqMax ∧ ¬(x.occ = true ∧ x.seq = s.latch.args.seq)) ∧
    (let s := pend held (.winGet true) (args (seq := 2))
     let x := slotAt s (s.latch.args.seq.toNat % s.win.cap.toNat)
     s.win.valid = true ∧ s.latch.args.seq.toNat ≤ seqMax ∧ ¬(x.occ = true ∧ x.seq = s.latch.args.seq)) := by decide

/-- lowest 2, current 3: 1 is stale, 2 and 3 are taken, 4 is ahead. -/
theorem witness_WinAckMovesLowestAndEdge :
    let s (n : Word) := pend (opened 2 3) .winAck (args (seq := n))
    ((s 1).win.valid = true ∧ (s 1).latch.args.seq.toNat ≤ seqMax ∧ (s 1).latch.args.seq.toNat < (s 1).win.lowest.toNat) ∧
    ((s 2).latch.args.seq.toNat ≤ seqMax ∧ (s 2).win.lowest.toNat ≤ (s 2).latch.args.seq.toNat ∧
      (s 2).latch.args.seq.toNat ≤ (s 2).win.current.toNat) ∧
    ((s 3).latch.args.seq.toNat ≤ seqMax ∧ (s 3).win.lowest.toNat ≤ (s 3).latch.args.seq.toNat ∧
      (s 3).latch.args.seq.toNat ≤ (s 3).win.current.toNat) ∧
    ((s 4).latch.args.seq.toNat ≤ seqMax ∧ (s 4).win.lowest.toNat ≤ (s 4).latch.args.seq.toNat ∧
      (s 4).win.current.toNat < (s 4).latch.args.seq.toNat) := by decide

/-- No window, one step below the edge, the edge, and SEQ_MAX. -/
theorem witness_WinAdvanceStepsCurrent :
    base.win.valid = false ∧
    ((opened 0 3).win.valid = true ∧ (opened 0 3).win.current.toNat < seqMax ∧
      (opened 0 3).win.current.toNat < (opened 0 3).win.edge.toNat) ∧
    ((opened 0 4).win.valid = true ∧ (opened 0 4).win.current.toNat < seqMax ∧
      (opened 0 4).win.edge.toNat ≤ (opened 0 4).win.current.toNat) ∧
    ((opened 0x7FFFFFFF 0x7FFFFFFF).win.valid = true ∧ seqMax ≤ (opened 0x7FFFFFFF 0x7FFFFFFF).win.current.toNat) ∧
    (opened 0x7FFFFFFE 0x7FFFFFFE).win.current.toNat + 1 = seqMax := by decide

theorem witness_WinObserveRaisesTheMark :
    let s (n : Word) := pend (opened 0 0 2) .winObserve (args (seq := n))
    (s 1).win.valid = true ∧ (s 1).latch.args.seq.toNat ≤ seqMax ∧ (s 3).latch.args.seq.toNat ≤ seqMax ∧
    (s 0x7FFFFFFF).latch.args.seq.toNat ≤ seqMax := by decide

theorem witness_WindowStateChangesOnlyByItsCommands : (∃ t, exec .winAck (pend (opened 0 3) .winAck (args (seq := 2))) =
    .next t ∧ t.win.lowest = 2) ∧ ∃ t, exec .winAdvance (opened 0 3) = .next t ∧ t.win.current = 4 :=
  ⟨⟨_, rfl, rfl⟩, _, rfl, rfl⟩

/-- The frame of R120's example with its checksum field zeroed. -/
theorem witness_StoredChecksumVerifies : 6 ≤ (frame.set 4 0 |>.set 5 0).length ∧ (frame.set 4 0 |>.set 5 0)[4]? = some 0 ∧
    (frame.set 4 0 |>.set 5 0)[5]? = some 0 := by decide

/-- The first and the last bit of a frame that verifies. -/
theorem witness_SingleBitErrorsAreDetected :
    ∀ x ∈ [(0, 7), (9, 0)],
      let f := flipBit frame x.1 x.2
      let s := pend (writeBuf base .rxf 0 f) .decode (args (rx := 10))
      cksum frame = 0 ∧ x.1 < frame.length ∧ x.2 < 8 ∧ s.cfg.wf = true ∧ s.latch.args.rxLen.toNat = frame.length ∧
        7 ≤ frame.length ∧ frame.length ≤ 7 + s.cfg.payloadMax ∧ HoldsBytes s .rxf 0 f := by decide

/-- The frames of 95_test_vectors.md S7 for R116(a), (b), (c), (d). -/
theorem witness_SomeErrorsAreNotDetected :
    (0 < rawSum frame ∧ rawSum frame % 0xFFFF = 0) ∧
    cksum ([0x00, 0x00, 0x00, 0x00, 0x75, 0x36, 0x04, 0x41] ++ [0x42, 0x43] ++ [] ++ [0x44, 0x45] ++ []) = 0 ∧
    cksum ([] ++ [0x00, 0x00] ++ [0x00, 0x00, 0xB9, 0x7B, 0x04, 0x41, 0x42, 0x43]) = 0 ∧
    0x04 * 256 + 0x41 + (0x42 * 256 + 0x43) = 0x04 * 256 + 0x40 + (0x42 * 256 + 0x44) := by decide

/-- ENCODE of R120's example, then the same bytes in RXF. -/
theorem witness_CodecRoundTrip :
    let s := pend (writeBuf base .txf 7 [0x41, 0x42, 0x43]) .encode (args (flag := 4) (len := 3))
    let u := pend (writeBuf base .rxf 0 frame) .decode (args (rx := 10))
    s.cfg.wf = true ∧ u.cfg = s.cfg ∧ after (exec .encode s) (fun t => (t.status.rc, bytes .txf 0 10 t)) =
      some (.ok, bytes .rxf 0 10 u) ∧ u.latch.args.rxLen.toNat = 7 + s.latch.args.len.toNat := by decide

/-- A state that meets the invariant, with a window and a slot in use. -/
theorem stateInv_held : StateInv held where
  cfg := by decide
  memory := by decide
  mapped := by decide
  slotCount := rfl
  slotData := by decide
  busy := by decide
  noWindow := by decide
  window := fun _ => {
    cap := by decide
    chunk := by decide
    ordered := by decide
    edge := by decide
    range := by decide
    slots := by
      intro k hk
      have hk : k < 4 := hk
      interval_cases k <;> constructor <;> decide }

theorem witness_StepKeepsTheInvariant : StateInv held ∧ ∃ t, step held = .next t := ⟨stateInv_held, _, rfl⟩

theorem witness_BusErrorKeepsTheInvariant :
    StateInv (held.putProgram [wrReg .id 0]) ∧ ∃ t, step (held.putProgram [wrReg .id 0]) = .fault (.busError 0 t) :=
  ⟨⟨stateInv_held.cfg, stateInv_held.memory, stateInv_held.mapped, stateInv_held.slotCount, stateInv_held.slotData,
    stateInv_held.busy, stateInv_held.noWindow, fun h =>
      have w := stateInv_held.window h
      ⟨w.cap, w.chunk, w.ordered, w.edge, w.range, w.slots⟩⟩, _, rfl⟩

/-- A step that raises current, a WIN_INIT that lowers it, and a reset. -/
theorem witness_CurrentAndMarkNeverDecrease :
    (∃ t, step (pend (opened 0 3) .winAdvance) = .next t ∧ t.win.current = 4) ∧
    (∃ t, step (pend (opened 0 3) .winInit (args (cap := 4) (chunk := 1))) = .next t ∧ t.win.current = 0 ∧
      t.engine = .idle) ∧
    ∃ t, step ((opened 0 3).putSchedule [.hardReset]) = .next t ∧ t.win.current = 0 :=
  ⟨⟨_, rfl, rfl⟩, ⟨_, rfl, rfl, rfl⟩, _, rfl, rfl⟩

/-- Two states that look alike and are not equal: the data of an empty slot differs. -/
theorem witness_HiddenSlotContentsAreNotObservable :
    let t := setSlot held 2 { Slot.reset with data := [(0, 1)] }
    StateInv held ∧ LookAlike held t ∧ t ≠ held := by
  refine ⟨stateInv_held, ⟨rfl, rfl, fun _ k hk => ?_⟩, by decide⟩
  have hk : k < 4 := hk
  interval_cases k <;> exact ⟨rfl, rfl, rfl, fun h i _ => by first | rfl | exact absurd h (by decide)⟩

end Sys2Proof.Tests
end

section
/-! PROOFS. 00_scope.md R13: a read of a frame-buffer byte nothing has written is a fault, for every reader. Each reader
passes on the fault of the one buffer read it makes. -/

namespace Sys2Proof.Machine

/-! ## Bus accesses to a frame buffer -/

theorem bufOffset_toNat {c : Config} (hc : c.wf = true) (b : Buf) {i : Nat} (h : i < bufSize c) :
    (bufOffset b i).toNat = bufAddr b i := by
  have := bufSize_le hc
  cases b <;> simp only [bufOffset, bufAddr, bufBase, BitVec.toNat_ofNat] <;> omega

/-- An access at the offset of a buffer byte is an access to that byte of the buffer (20_memory.md R60). -/
theorem busAccess_eq_accessBuf {s : State} {a : Access} {b : Buf} {i : Nat} (hc : s.cfg.wf = true)
    (hi : i < bufSize s.cfg) (ha : a.addr = bufOffset b i) : busAccess a s = accessBuf b i a s := by
  have hr : regionOf s.cfg a.addr.toNat = .buf b i := by
    rw [ha, bufOffset_toNat hc b hi, regionOf_bufAddr hc b hi]
  simp only [busAccess, hr]

theorem busAccess_byteAccess {s : State} {b : Buf} {i : Nat} (write : Bool) (v : Word) (hc : s.cfg.wf = true)
    (hidle : s.engine = .idle) (hi : i < bufSize s.cfg) :
    busAccess (byteAccess write b i v) s = accessByte b i (byteAccess write b i v) s := by
  rw [busAccess_eq_accessBuf hc hi rfl]
  simp [accessBuf, isBusy_eq_false.mpr hidle, byteAccess]

theorem busAccess_wordAccess {s : State} {b : Buf} {i : Nat} (write : Bool) (v : Word) (hc : s.cfg.wf = true)
    (hidle : s.engine = .idle) (hi : i < bufSize s.cfg) (h4 : i % 4 = 0) :
    busAccess (wordAccess write b i v) s = accessWord b i (wordAccess write b i v) s := by
  rw [busAccess_eq_accessBuf hc hi rfl]
  simp [accessBuf, isBusy_eq_false.mpr hidle, wordAccess, h4]

/-! ## What ENCODE's checks and its header mean -/

theorem isFlagCode_iff_isFlagByte {c : Config} {b : Byte} : isFlagCode c.flags b = true ↔ IsFlagByte c b := by
  simp only [isFlagCode, FlagCodes.all, List.contains_iff_mem, List.mem_cons, List.not_mem_nil, or_false]
  constructor
  · rintro (h | h | h | h | h | h | h | h | h)
    exacts [⟨.filename, h.symm⟩, ⟨.filenameAck, h.symm⟩, ⟨.filenameError, h.symm⟩, ⟨.data, h.symm⟩,
      ⟨.resentData, h.symm⟩, ⟨.resentTimeout, h.symm⟩, ⟨.rr, h.symm⟩, ⟨.srej, h.symm⟩, ⟨.eof, h.symm⟩]
  · rintro ⟨f, rfl⟩
    cases f <;> simp [codeOf]

/-- ENCODE's header changes nothing outside the seven header bytes of TXF. -/
theorem read?_writeHeader_of_outside (s : State) (seq : Word) (c : Half) (flag : Byte) {a : Nat}
    (h : ¬(bufAddr .txf 0 ≤ a ∧ a < bufAddr .txf 0 + hdrLen)) :
    Memory.read? (writeHeader s seq c flag).mem a = Memory.read? s.mem a := by
  simp only [bufAddr, bufBase, hdrLen] at h
  simp only [writeHeader, writeBuf_mem, bufAddr, bufBase]
  rw [Memory.read?_writeRange_of_outside _ _ _ (by simp only [List.length_cons, List.length_nil]; omega),
    Memory.read?_writeRange_of_outside _ _ _ (by simp only [be16Bytes_length]; omega),
    Memory.read?_writeRange_of_outside _ _ _ (by simp only [be32Bytes_length]; omega)]

theorem Memory.read?_writeRange_ne_none {m : Memory} {a c : Nat} {bytes : List Byte}
    (h : (a ≤ c ∧ c < a + bytes.length) ∨ Memory.read? m c ≠ none) : Memory.read? (m.writeRange a bytes) c ≠ none := by
  by_cases hin : a ≤ c ∧ c < a + bytes.length
  · obtain ⟨k, rfl⟩ := Nat.exists_eq_add_of_le hin.1
    simp [Memory.read?_writeRange_of_inside m a bytes k (by omega)]
  · rw [Memory.read?_writeRange_of_outside _ _ _ hin]
    exact h.resolve_left hin

/-- ENCODE's header leaves every header byte written. -/
theorem read?_writeHeader_ne_none (s : State) (seq : Word) (c : Half) (flag : Byte) {i : Nat} (h : i < hdrLen) :
    Memory.read? (writeHeader s seq c flag).mem (bufAddr .txf i) ≠ none := by
  simp only [hdrLen] at h
  simp only [writeHeader, writeBuf_mem, bufAddr, bufBase]
  rcases (by omega : i < 4 ∨ (4 ≤ i ∧ i < 6) ∨ 6 ≤ i) with h4 | h6 | h7
  · exact Memory.read?_writeRange_ne_none (.inr (Memory.read?_writeRange_ne_none (.inr
      (Memory.read?_writeRange_ne_none (.inl (by simp only [be32Bytes_length]; omega))))))
  · exact Memory.read?_writeRange_ne_none (.inr (Memory.read?_writeRange_ne_none (.inl
      (by simp only [be16Bytes_length]; omega))))
  · exact Memory.read?_writeRange_ne_none (.inl (by simp only [List.length_cons, List.length_nil]; omega))

/-! ## The fault of an unwritten byte -/

/-- R13 for a reader of `B[lo..lo+n)` that answers `o`: if one of those bytes is unwritten, `o` is the fault of an
unwritten byte of the range. -/
def FaultsOnUnwritten (s : State) (b : Buf) (lo n : Nat) (o : Result) : Prop :=
  (∃ i, i < n ∧ s.byte? b (lo + i) = none) →
    ∃ i, i < n ∧ s.byte? b (lo + i) = none ∧ o = .fault (.unwrittenByte (bufAddr b (lo + i)))

/-- A reader that passes on the error of its buffer read meets R13. -/
theorem faultsOnUnwritten_of_readBuf {s : State} {b : Buf} {lo n : Nat} {o : Result}
    (h : ∀ e, readBuf s b lo n = .error e → o = .fault (.unwrittenByte e)) : FaultsOnUnwritten s b lo n o := by
  intro hu
  obtain ⟨i, hi, hn, he⟩ := readBuf_of_unwritten hu
  exact ⟨i, hi, hn, h _ he⟩

theorem accessByte_faultsOnUnwritten (s : State) {b : Buf} {i : Nat} {a : Access} (hw : a.write = false) :
    FaultsOnUnwritten s b i 1 (accessByte b i a s) :=
  faultsOnUnwritten_of_readBuf fun e he => by simp [accessByte, hw, he]

theorem accessWord_faultsOnUnwritten (s : State) {b : Buf} {i : Nat} {a : Access} (hw : a.write = false) :
    FaultsOnUnwritten s b i 4 (accessWord b i a s) :=
  faultsOnUnwritten_of_readBuf fun e he => by simp [accessWord, hw, he]

theorem execCksum_faultsOnUnwritten {s : State} (b : Buf)
    (h : s.latch.args.ckOff.toNat + s.latch.args.ckLen.toNat ≤ bufSize s.cfg) :
    FaultsOnUnwritten s b s.latch.args.ckOff.toNat s.latch.args.ckLen.toNat (execCksum b s) :=
  faultsOnUnwritten_of_readBuf fun e he => by simp [execCksum, Nat.not_lt.mpr h, he]

theorem execDecode_faultsOnUnwritten {s : State} (hlo : hdrLen ≤ s.latch.args.rxLen.toNat)
    (hhi : s.latch.args.rxLen.toNat ≤ frameMax s.cfg) :
    FaultsOnUnwritten s .rxf 0 s.latch.args.rxLen.toNat (execDecode s) :=
  faultsOnUnwritten_of_readBuf fun e he => by simp [execDecode, Nat.not_lt.mpr hlo, Nat.not_lt.mpr hhi, he]

theorem execWinAdd_faultsOnUnwritten {s : State} (b : Buf) (hvalid : s.win.valid = true)
    (hseq : s.latch.args.seq.toNat ≤ seqMax) (hlen : s.latch.args.len.toNat ≤ s.win.chunk.toNat) :
    FaultsOnUnwritten s b hdrLen s.latch.args.len.toNat (execWinAdd b s) := by
  have hcheck : windowCheck true s = none := by simp [windowCheck, hvalid, Nat.not_lt.mpr hseq]
  exact faultsOnUnwritten_of_readBuf fun e he => by simp [execWinAdd, hcheck, Nat.not_lt.mpr hlen, he]

/-- ENCODE reads the whole frame after it wrote the header, so the byte it stops at is one of the payload. -/
theorem execEncode_faultsOnUnwritten {s : State} (hlen : s.latch.args.len.toNat ≤ s.cfg.payloadMax)
    (hflag : isFlagCode s.cfg.flags s.latch.args.flag = true) :
    FaultsOnUnwritten s .txf hdrLen s.latch.args.len.toNat (execEncode s) := by
  have payload (i : Nat) :
      (writeHeader s s.latch.args.seq 0 s.latch.args.flag).byte? .txf (hdrLen + i) = s.byte? .txf (hdrLen + i) :=
    read?_writeHeader_of_outside _ _ _ _ (by simp only [bufAddr]; omega)
  rintro ⟨i, hi, hn⟩
  obtain ⟨j, hj, hjn, he⟩ :=
    readBuf_of_unwritten (s := writeHeader s s.latch.args.seq 0 s.latch.args.flag) (b := .txf) (off := 0)
      (n := hdrLen + s.latch.args.len.toNat) ⟨hdrLen + i, by omega, by rw [Nat.zero_add]; exact (payload i).trans hn⟩
  rw [Nat.zero_add] at hjn he
  have hpast : hdrLen ≤ j := Nat.not_lt.mp fun hlt => read?_writeHeader_ne_none _ _ _ _ hlt hjn
  obtain ⟨k, rfl⟩ := Nat.exists_eq_add_of_le hpast
  exact ⟨k, by omega, (payload k).symm.trans hjn, by
    simp only [execEncode, Nat.not_lt.mpr hlen, hflag, he, if_false, Bool.not_true, Bool.false_eq_true]⟩

/-- Settles O25: each reader of R13 by its own lemma. -/
theorem readingUnwrittenBytesFaults : Obligations.ReadingUnwrittenBytesFaults := by
  intro s hc
  refine ⟨fun b i hidle hi => ?byteRead, fun b i hidle hi h4 => ?wordRead, fun b hrange => ?cksum,
    fun hlen hflag => ?encode, fun hlo hhi => ?decode, fun b hvalid hseq hlen => ?winAdd⟩
  case byteRead =>
    rw [busAccess_byteAccess false 0 hc hidle hi]
    exact accessByte_faultsOnUnwritten s rfl
  case wordRead =>
    rw [busAccess_wordAccess false 0 hc hidle hi h4]
    exact accessWord_faultsOnUnwritten s rfl
  case cksum => exact execCksum_faultsOnUnwritten b hrange
  case encode => exact execEncode_faultsOnUnwritten hlen (isFlagCode_iff_isFlagByte.mpr hflag)
  case decode => exact execDecode_faultsOnUnwritten hlo hhi
  case winAdd => exact execWinAdd_faultsOnUnwritten b hvalid hseq hlen

end Sys2Proof.Machine
end

section
/-! PROOFS. What every step keeps: one induction principle over the turns, then the constant parameters (00_scope.md R8)
and the machine's invariant (10_state.md section 6) by it. -/

namespace Sys2Proof.Machine

/-! ## A property that every turn keeps is kept by the step -/

/-- Each operation a turn of the host, of the engine or of the reset line is made of keeps `P`. -/
structure KeptByTurns (P : State → Prop) : Prop where
  schedule : ∀ {s}, P s → ∀ l, P (s.putSchedule l)
  program  : ∀ {s}, P s → ∀ l, P (s.putProgram l)
  bus      : ∀ {s}, P s → ∀ x, P (s.putBus x)
  register : ∀ {s u r v}, P s → writeReg r v s = some u → P u
  buffer   : ∀ {s b off bytes}, P s → off + bytes.length ≤ bufSize s.cfg → P (writeBuf s b off bytes)
  command  : ∀ {s t i}, P s → exec i s = .next t → P t
  illegal  : ∀ {s}, P s → P (finish .badCmd s)
  reset    : ∀ {s}, P s → P (resetBlock s)

section
variable {P : State → Prop} {s t : State}

theorem KeptByTurns.busAccess {a : Access} (hP : KeptByTurns P) (hs : P s) (h : busAccess a s = .next t) : P t := by
  obtain ⟨r, -, -, -, rfl⟩ | ⟨r, u, -, -, -, hu, rfl⟩ | ⟨-, -, v, rfl⟩ | ⟨-, -, b, off, bytes, -, hfit, rfl⟩ :=
    busAccess_cases h
  · exact hP.bus hs _
  · exact hP.bus (hP.register hs hu) _
  · exact hP.bus hs _
  · exact hP.bus (hP.buffer hs hfit) _

theorem KeptByTurns.hostTurn (hP : KeptByTurns P) (hs : P s) (h : hostTurn s = .next t) : P t := by
  obtain ⟨-, rfl⟩ | ⟨a, p, -, ha⟩ | ⟨rest, -, ⟨-, rfl⟩ | ⟨-, rfl⟩⟩ := hostTurn_cases h
  · exact hs
  · exact hP.busAccess (hP.program hs p) ha
  · exact hP.bus hs _
  · exact hP.program (hP.bus hs _) rest

theorem KeptByTurns.engineTurn (hP : KeptByTurns P) (hs : P s) (h : engineTurn s = .next t) : P t := by
  obtain ⟨-, rfl⟩ | ⟨-, i, -, hi⟩ | ⟨-, -, rfl⟩ := engineTurn_cases h
  · exact hs
  · exact hP.command hs hi
  · exact hP.illegal hs

theorem KeptByTurns.step (hP : KeptByTurns P) (hs : P s) (h : step s = .next t) : P t := by
  obtain ⟨p, hhost | hengine | hreset⟩ := step_cases h
  · exact hP.hostTurn (hP.schedule hs p) hhost
  · exact hP.engineTurn (hP.schedule hs p) hengine
  · cases hreset
    exact hP.reset (hP.schedule hs p)

end

/-! ## The parameters -/

theorem submit_cfg (w : Word) (s : State) : (submit w s).cfg = s.cfg := by
  unfold submit
  split <;> rfl

theorem writeCtrl_cfg (v : Word) (s : State) : (writeCtrl v s).cfg = s.cfg := by
  unfold writeCtrl
  split <;> rfl

/-- What a register write can do: the three control registers by their own rules, and else an argument register. -/
theorem writeReg_cases {r : Reg} {v : Word} {s u : State} (h : writeReg r v s = some u) :
    u = writeCtrl v s ∨ u = writeStatus v s ∨ u = submit v s ∨ ∃ x, u = s.putArgs x := by
  cases r <;> cases h
  case ctrl => exact .inl rfl
  case status => exact .inr (.inl rfl)
  case cmd => exact .inr (.inr (.inl rfl))
  all_goals exact .inr (.inr (.inr ⟨_, rfl⟩))

theorem writeReg_cfg {r : Reg} {v : Word} {s u : State} (h : writeReg r v s = some u) : u.cfg = s.cfg := by
  obtain rfl | rfl | rfl | ⟨x, rfl⟩ := writeReg_cases h
  · exact writeCtrl_cfg v s
  · rfl
  · exact submit_cfg v s
  · rfl

@[simp] theorem writeHeader_cfg (s : State) (n : Word) (c : Half) (flag : Byte) :
    (writeHeader s n c flag).cfg = s.cfg := rfl

theorem exec_cfg {i : Instr} {s t : State} (h : exec i s = .next t) : t.cfg = s.cfg := by
  cases i with
  | nop => cases h; rfl
  | cksum b => obtain ⟨-, rfl⟩ | ⟨_, -, -, rfl⟩ := execCksum_cases h <;> rfl
  | encode => obtain ⟨-, rfl⟩ | ⟨-, -, rfl⟩ | ⟨-, -, _, -, rfl⟩ := execEncode_cases h <;> simp
  | decode =>
    obtain ⟨-, rfl⟩ | ⟨-, rfl⟩ | ⟨-, -, _, -, ⟨-, rfl⟩ | ⟨-, rfl⟩⟩ := execDecode_cases h <;> rfl
  | winInit => obtain rfl | ⟨-, -, -, -, rfl⟩ := execWinInit_cases h <;> rfl
  | winAdd b => obtain ⟨_, -, rfl⟩ | ⟨-, -, rfl⟩ | ⟨-, -, _, -, rfl⟩ := execWinAdd_cases h <;> rfl
  | winRelease => obtain ⟨_, -, rfl⟩ | ⟨-, rfl⟩ := execWinRelease_cases h <;> rfl
  | winGet c =>
    obtain ⟨_, -, rfl⟩ | ⟨-, -, rfl⟩ | ⟨-, -, -, rfl⟩ | ⟨-, -, -, rfl⟩ := execWinGet_cases h <;> rfl
  | winAck => obtain ⟨_, -, rfl⟩ | ⟨-, rfl⟩ | ⟨-, rfl⟩ | ⟨-, -, -, rfl⟩ := execWinAck_cases h <;> rfl
  | winAdvance => obtain ⟨_, -, rfl⟩ | ⟨-, rfl⟩ | ⟨-, rfl⟩ | ⟨-, -, -, rfl⟩ := execWinAdvance_cases h <;> rfl
  | winObserve => obtain ⟨_, -, rfl⟩ | ⟨-, rfl⟩ := execWinObserve_cases h <;> rfl

theorem cfg_keptByTurns (c : Config) : KeptByTurns (fun s => s.cfg = c) where
  schedule hs _ := hs
  program hs _ := hs
  bus hs _ := hs
  register hs h := (writeReg_cfg h).trans hs
  buffer hs _ := hs
  command hs h := (exec_cfg h).trans hs
  illegal hs := hs
  reset hs := hs

theorem step_cfg {s t : State} (h : step s = .next t) : t.cfg = s.cfg := (cfg_keptByTurns s.cfg).step rfl h

/-- Settles O24: ID is a constant and PARAM a function of the parameters, which no turn changes. -/
theorem parametersAreConstant : Obligations.ParametersAreConstant := by
  intro s t h
  have hcfg := step_cfg h
  exact ⟨hcfg, rfl, congrArg paramWord hcfg⟩

/-! ## The invariant under each operation on the state -/

section
variable {s t : State}

/-- The invariant speaks of the parameters, the buffers, the slots, the window, and of DONE while busy. -/
theorem StateInv.congr (h : StateInv s) (hcfg : t.cfg = s.cfg) (hmem : t.mem = s.mem) (hslots : t.slots = s.slots)
    (hwin : t.win = s.win) (hbusy : t.engine = .busy → t.status.done = false) : StateInv t where
  cfg := hcfg ▸ h.cfg
  memory := hmem ▸ h.memory
  mapped := by rw [hmem, hcfg]; exact h.mapped
  slotCount := by rw [hslots, hcfg]; exact h.slotCount
  slotData := by rw [hslots, hcfg]; exact h.slotData
  busy := hbusy
  noWindow := hwin ▸ h.noWindow
  window hv := by
    have hw := h.window (hwin ▸ hv)
    constructor <;> simp only [hwin, hcfg, slotAt, hslots]
    exacts [hw.cap, hw.chunk, hw.ordered, hw.edge, hw.range, hw.slots]

theorem StateInv.putRes (h : StateInv s) (x : Results) : StateInv (s.putRes x) := h.congr rfl rfl rfl rfl h.busy

theorem StateInv.putArgs (h : StateInv s) (x : Args) : StateInv (s.putArgs x) := h.congr rfl rfl rfl rfl h.busy

theorem StateInv.putIe (h : StateInv s) (x : Bool) : StateInv (s.putIe x) := h.congr rfl rfl rfl rfl h.busy

theorem StateInv.putBus (h : StateInv s) (x : BusResponse) : StateInv (s.putBus x) := h.congr rfl rfl rfl rfl h.busy

theorem StateInv.putProgram (h : StateInv s) (l : List HostLine) : StateInv (s.putProgram l) :=
  h.congr rfl rfl rfl rfl h.busy

theorem StateInv.putSchedule (h : StateInv s) (l : List Mover) : StateInv (s.putSchedule l) :=
  h.congr rfl rfl rfl rfl h.busy

/-- A write to STATUS that sets no DONE bit. -/
theorem StateInv.putStatus (h : StateInv s) {x : Status} (hx : s.status.done = false → x.done = false) :
    StateInv (s.putStatus x) := h.congr rfl rfl rfl rfl fun hb => hx (h.busy hb)

theorem StateInv.reportSlot (h : StateInv s) (k : Nat) (n : Word) : StateInv (reportSlot s k n) := h.putRes _

theorem StateInv.finish (h : StateInv s) (rc : RC) : StateInv (finish rc s) := h.congr rfl rfl rfl rfl (nomatch ·)

theorem StateInv.accept (h : StateInv s) (w : Word) : StateInv (accept w s) := h.congr rfl rfl rfl rfl fun _ => rfl

theorem StateInv.writeBuf (h : StateInv s) (b : Buf) {off : Nat} {bytes : List Byte}
    (hfit : off + bytes.length ≤ bufSize s.cfg) : StateInv (writeBuf s b off bytes) :=
  { h with
    memory := Memory.writeRange_wf _ _ h.memory
    mapped := fun c hc => by
      rcases Memory.mem_writeRange hc with hin | hold
      · cases b <;> simp only [bufAddr, bufBase] at hin <;> simp only [writeBuf_cfg, InBuffer] <;> omega
      · exact h.mapped c hold
    window := fun hv => { h.window hv with } }

/-- A reset leaves no window, no written byte and CAP_MAX empty slots (70_reset_and_hazards.md R170). -/
theorem StateInv.resetBlock (h : StateInv s) : StateInv (resetBlock s) where
  cfg := h.cfg
  memory := Memory.wf_nil
  mapped := by simp
  slotCount := by simp
  slotData x hx := by
    obtain ⟨-, rfl⟩ := List.mem_replicate.mp hx
    simp [Slot.reset]
  busy := nofun
  noWindow _ := rfl
  window := nofun

theorem StateInv.submit (h : StateInv s) (w : Word) : StateInv (submit w s) := by
  unfold Machine.submit
  split
  · exact h.putStatus id
  · exact h.accept w

theorem StateInv.writeCtrl (h : StateInv s) (v : Word) : StateInv (writeCtrl v s) := by
  unfold Machine.writeCtrl
  split
  · exact (h.putIe _).resetBlock
  · exact h.putIe _

theorem StateInv.writeStatus (h : StateInv s) (v : Word) : StateInv (writeStatus v s) :=
  h.putStatus fun hdone => by simp [hdone]

theorem StateInv.writeReg {r : Reg} {v : Word} (h : StateInv s) (hw : writeReg r v s = some t) : StateInv t := by
  obtain rfl | rfl | rfl | ⟨x, rfl⟩ := writeReg_cases hw
  · exact h.writeCtrl v
  · exact h.writeStatus v
  · exact h.submit v
  · exact h.putArgs x

/-! ## The invariant under changes of the window and of a slot -/

/-- A command that moves a valid window has only to meet the window's invariants again. -/
theorem StateInv.putWin {w : Window} (h : StateInv s) (hv : w.valid = true) (hw : WindowInv (s.putWin w)) :
    StateInv (s.putWin w) :=
  { h with
    noWindow := fun hn => absurd (hv.symm.trans hn) (by decide)
    window := fun _ => hw }

/-- Moving a window's bounds leaves its slots as they are: a slot's invariant reads the capacity and the chunk size. -/
theorem WindowInv.moved {w : Window} (h : WindowInv s) (hcap : w.cap = s.win.cap) (hchunk : w.chunk = s.win.chunk)
    (ordered : w.lowest.toNat ≤ w.current.toNat ∧ w.current.toNat ≤ w.edge.toNat)
    (edge : w.edge.toNat = w.lowest.toNat + w.cap.toNat)
    (range : w.current.toNat ≤ seqMax ∧ w.hwm.toNat ≤ seqMax) : WindowInv (s.putWin w) where
  cap := hcap ▸ h.cap
  chunk := hchunk ▸ h.chunk
  ordered := ordered
  edge := edge
  range := range
  slots k hk := by
    obtain ⟨hempty, hocc⟩ := h.slots k (hcap ▸ hk)
    have hslot : SlotInv w k (slotAt s k) := ⟨hempty, by rwa [hcap, hchunk]⟩
    exact hslot

theorem StateInv.slotIndex_lt (h : StateInv s) (hv : s.win.valid = true) (n : Word) :
    slotIndex s.win n < s.win.cap.toNat := Nat.mod_lt _ (h.window hv).cap.1

theorem StateInv.lt_slots_length (h : StateInv s) (hv : s.win.valid = true) {k : Nat} (hk : k < s.win.cap.toNat) :
    k < s.slots.length := by
  rw [h.slotCount]
  exact hk.trans_le (h.window hv).cap.2

/-- The data of a slot of the window is in canonical form and below CHUNK_MAX. -/
theorem StateInv.slotAt_data (h : StateInv s) (hv : s.win.valid = true) {k : Nat} (hk : k < s.win.cap.toNat) :
    Memory.wf (slotAt s k).data ∧ ∀ c ∈ (slotAt s k).data, c.1 < chunkMax s.cfg :=
  h.slotData _ (slotAt_mem (h.lt_slots_length hv hk))

/-- Replacing a slot of the window by one that meets the slot's own invariants. -/
theorem StateInv.setSlot {k : Nat} {x : Slot} (h : StateInv s) (hv : s.win.valid = true) (hx : SlotInv s.win k x)
    (hdata : Memory.wf x.data ∧ ∀ c ∈ x.data, c.1 < chunkMax s.cfg) : StateInv (setSlot s k x) :=
  { h with
    slotCount := by simpa using h.slotCount
    slotData := fun y hy => by
      rcases List.mem_or_eq_of_mem_set hy with hold | rfl
      · exact h.slotData y hold
      · exact hdata
    window := fun _ =>
      { h.window hv with
        slots := fun j hj => by
          rw [slotAt_setSlot]
          split
          · next hkj => exact hkj.1 ▸ hx
          · exact (h.window hv).slots j hj } }

theorem slotInv_clearSlot (w : Window) (k : Nat) (x : Slot) : SlotInv w k (clearSlot x) :=
  ⟨fun _ => ⟨rfl, rfl⟩, nofun⟩

theorem slotInv_filledSlot {w : Window} {x : Slot} {n : Word} {len : Len} {bytes : List Byte} (hn : n.toNat ≤ seqMax)
    (hlen : len.toNat ≤ w.chunk.toNat) (hbytes : bytes.length = len.toNat) :
    SlotInv w (slotIndex w n) (filledSlot x n len bytes) := by
  refine ⟨nofun, fun _ => ⟨hn, rfl, hlen, fun i hi => ?_⟩⟩
  have hread := Memory.read?_writeRange_of_inside x.data 0 bytes i (hbytes ▸ hi)
  rw [Nat.zero_add] at hread
  simp [filledSlot, hread]

theorem occ_of_slotMatches {x : Slot} {n : Word} (h : slotMatches x n = true) : x.occ = true :=
  (Bool.and_eq_true_iff.mp h).1

theorem seq_le_of_windowCheck (h : windowCheck true s = none) :
    s.win.valid = true ∧ s.latch.args.seq.toNat ≤ seqMax := by
  obtain ⟨-, hs⟩ | ⟨-, -, -, hs⟩ | ⟨hv, hseq, -⟩ := windowCheck_cases true s
  · cases hs.symm.trans h
  · cases hs.symm.trans h
  · exact ⟨hv, hseq rfl⟩

theorem valid_of_windowCheck {usesSeq : Bool} (h : windowCheck usesSeq s = none) : s.win.valid = true := by
  obtain ⟨-, hs⟩ | ⟨hv, -⟩ | ⟨hv, -⟩ := windowCheck_cases usesSeq s
  · cases hs.symm.trans h
  · exact hv
  · exact hv

/-! ## The invariant under each command -/

theorem StateInv.writeHeader (h : StateInv s) (n : Word) (c : Half) (flag : Byte) :
    StateInv (writeHeader s n c flag) := by
  have hsize : hdrLen ≤ bufSize s.cfg := (Nat.le_add_right _ _).trans (frameMax_le_bufSize s.cfg)
  simp only [hdrLen] at hsize
  exact ((h.writeBuf .txf (by simp; omega)).writeBuf .txf (by simp; omega)).writeBuf .txf (by simpa using hsize)

/-- WIN_INIT's window meets every invariant: no sequence number yet, and all its slots empty. -/
theorem StateInv.initWindow (h : StateInv s) {cap : Word} {chunk : Len} (hcap : cap ≠ 0)
    (hcapMax : cap.toNat ≤ s.cfg.capMax) (hchunk : chunk ≠ 0) (hchunkMax : chunk.toNat ≤ chunkMax s.cfg) :
    StateInv ((s.putWin (freshWindow cap chunk)).putSlots (clearSlots cap.toNat s.slots)) := by
  have hcap0 : cap.toNat ≠ 0 := fun h0 => hcap (BitVec.eq_of_toNat_eq h0)
  have hchunk0 : chunk.toNat ≠ 0 := fun h0 => hchunk (BitVec.eq_of_toNat_eq h0)
  have hfit : (cap.setWidth 17).toNat = cap.toNat := by
    have := Config.capMax_le h.cfg
    rw [BitVec.toNat_setWidth, Nat.mod_eq_of_lt (by omega)]
  exact
    { cfg := h.cfg
      memory := h.memory
      mapped := h.mapped
      slotCount := (clearSlots_length _ _).trans h.slotCount
      slotData := fun x hx => by
        obtain ⟨y, hy, hxy⟩ := mem_clearSlots hx
        rw [hxy]
        exact h.slotData y hy
      busy := h.busy
      noWindow := nofun
      window := fun _ =>
        { cap := ⟨by simp only [freshWindow, State.putSlots_win, State.putWin_win]; omega, hfit.trans_le hcapMax⟩
          chunk := ⟨Nat.one_le_iff_ne_zero.mpr hchunk0, hchunkMax⟩
          ordered := ⟨le_refl _, Nat.zero_le _⟩
          edge := by simp [freshWindow, hfit]
          range := ⟨Nat.zero_le _, Nat.zero_le _⟩
          slots := fun k hk => by
            have hk' : k < cap.toNat := hfit ▸ hk
            have hlen : k < s.slots.length := by rw [h.slotCount]; omega
            simp only [slotAt, State.putSlots_slots, clearSlots_getD, hk', hlen, and_self, if_true]
            exact slotInv_clearSlot _ _ _ } }

/-- WIN_ACK moves the lowest unacknowledged number up to one that is at most the current one, and the edge with it. -/
theorem StateInv.ackWindow (h : StateInv s) (hv : s.win.valid = true) {n : Word} (hlow : s.win.lowest.toNat ≤ n.toNat)
    (hcur : n.toNat ≤ s.win.current.toNat) :
    StateInv (s.putWin { s.win with lowest := n, edge := n + s.win.cap.setWidth 32 }) := by
  have hw := h.window hv
  obtain ⟨-, hedge⟩ := hw.ordered
  have hrange := hw.range.1
  have hcap := hw.cap.2.trans (Config.capMax_le h.cfg)
  have hnew : (n + s.win.cap.setWidth 32).toNat = n.toNat + s.win.cap.toNat := by
    simp only [seqMax] at hrange
    rw [BitVec.toNat_add, BitVec.toNat_setWidth_of_le (by decide), Nat.mod_eq_of_lt (by omega)]
  rw [hw.edge] at hedge
  exact h.putWin hv (hw.moved rfl rfl ⟨hcur, by simp only [hnew]; omega⟩ hnew hw.range)

theorem StateInv.advanceWindow (h : StateInv s) (hv : s.win.valid = true) (hmax : s.win.current.toNat < seqMax)
    (hedge : s.win.current.toNat < s.win.edge.toNat) :
    StateInv (s.putWin { s.win with current := s.win.current + 1 }) := by
  have hw := h.window hv
  have hnew : (s.win.current + 1).toNat = s.win.current.toNat + 1 := by
    simp only [seqMax] at hmax
    bv_omega
  refine h.putWin hv (hw.moved rfl rfl ?_ hw.edge ⟨hnew.trans_le hmax, hw.range.2⟩)
  have := hw.ordered
  simp only [hnew]
  omega

theorem StateInv.observeWindow (h : StateInv s) (hv : s.win.valid = true) {m : Word} (hm : m.toNat ≤ seqMax) :
    StateInv (s.putWin { s.win with hwm := m }) :=
  have hw := h.window hv
  h.putWin hv (hw.moved rfl rfl hw.ordered hw.edge ⟨hw.range.1, hm⟩)

/-- The bytes WIN_GET copies fit behind the header: a slot holds at most CHUNK_MAX of them. -/
theorem StateInv.copySlot (h : StateInv s) (hv : s.win.valid = true) {n : Word}
    (hm : slotMatches (slotAt s (slotIndex s.win n)) n = true) :
    hdrLen + (Machine.slotData (slotIndex s.win n) (slotAt s (slotIndex s.win n))).length ≤ bufSize s.cfg := by
  have hw := h.window hv
  obtain ⟨-, -, hlen, -⟩ := (hw.slots _ (h.slotIndex_lt hv n)).occupied (occ_of_slotMatches hm)
  rw [slotData_length]
  calc hdrLen + (slotAt s (slotIndex s.win n)).dlen.toNat ≤ hdrLen + s.cfg.payloadMax :=
        Nat.add_le_add_left (hlen.trans hw.chunk.2) _
    _ ≤ bufSize s.cfg := frameMax_le_bufSize s.cfg

/-- WIN_ADD writes at most WIN_CHUNK bytes into the slot of its sequence number. -/
theorem StateInv.addSlot (h : StateInv s) (hv : s.win.valid = true) {n : Word} {len : Len} {bytes : List Byte}
    (hn : n.toNat ≤ seqMax) (hlen : len.toNat ≤ s.win.chunk.toNat) (hbytes : bytes.length = len.toNat) :
    StateInv (Machine.setSlot (Machine.reportSlot s (slotIndex s.win n) n) (slotIndex s.win n)
      (filledSlot (slotAt s (slotIndex s.win n)) n len bytes)) := by
  obtain ⟨hwf, hbound⟩ := h.slotAt_data hv (h.slotIndex_lt hv n)
  refine (h.reportSlot _ n).setSlot hv (slotInv_filledSlot hn hlen hbytes) ⟨Memory.writeRange_wf _ _ hwf, ?_⟩
  intro c hc
  have hchunk := (h.window hv).chunk.2
  rcases Memory.mem_writeRange hc with hin | hold
  · simp only [reportSlot_cfg, chunkMax]
    omega
  · exact hbound c hold

theorem StateInv.releaseSlot (h : StateInv s) (hv : s.win.valid = true) (n : Word) :
    StateInv (Machine.setSlot (Machine.reportSlot s (slotIndex s.win n) n) (slotIndex s.win n)
      (clearSlot (slotAt s (slotIndex s.win n)))) :=
  (h.reportSlot _ n).setSlot hv (slotInv_clearSlot _ _ _) (h.slotAt_data hv (h.slotIndex_lt hv n))

theorem StateInv.exec {i : Instr} (h : StateInv s) (hi : exec i s = .next t) : StateInv t := by
  cases i with
  | nop => cases hi; exact h.finish _
  | cksum b =>
    obtain ⟨-, rfl⟩ | ⟨_, -, -, rfl⟩ := execCksum_cases hi
    · exact h.finish _
    · exact (h.putRes _).finish _
  | encode =>
    obtain ⟨-, rfl⟩ | ⟨-, -, rfl⟩ | ⟨-, -, _, -, rfl⟩ := execEncode_cases hi
    · exact h.finish _
    · exact h.finish _
    · exact ((h.writeHeader _ _ _).putRes _).finish _
  | decode =>
    obtain ⟨-, rfl⟩ | ⟨-, rfl⟩ | ⟨-, -, _, -, ⟨-, rfl⟩ | ⟨-, rfl⟩⟩ := execDecode_cases hi
    · exact h.finish _
    · exact h.finish _
    · exact (h.putRes _).finish _
    · refine (StateInv.putStatus (h.putRes _) ?_).finish _
      exact id
  | winInit =>
    obtain rfl | ⟨hcap, hcapMax, hchunk, hchunkMax, rfl⟩ := execWinInit_cases hi
    · exact h.finish _
    · exact (h.initWindow hcap hcapMax hchunk hchunkMax).finish _
  | winAdd b =>
    obtain ⟨_, -, rfl⟩ | ⟨-, -, rfl⟩ | ⟨hcheck, hlen, bytes, hread, rfl⟩ := execWinAdd_cases hi
    · exact h.finish _
    · exact h.finish _
    · obtain ⟨hv, hseq⟩ := seq_le_of_windowCheck hcheck
      exact (h.addSlot hv hseq hlen (readBuf_eq_ok_iff.mp hread).1).finish _
  | winRelease =>
    obtain ⟨_, -, rfl⟩ | ⟨hcheck, rfl⟩ := execWinRelease_cases hi
    · exact h.finish _
    · exact (h.releaseSlot (valid_of_windowCheck hcheck) _).finish _
  | winGet c =>
    obtain ⟨_, -, rfl⟩ | ⟨-, -, rfl⟩ | ⟨-, -, -, rfl⟩ | ⟨hcheck, hmatch, -, rfl⟩ := execWinGet_cases hi
    · exact h.finish _
    · exact (h.reportSlot _ _).finish _
    · exact ((h.reportSlot _ _).putRes _).finish _
    · refine (StateInv.writeBuf ((h.reportSlot _ _).putRes _) .txf ?_).finish _
      exact h.copySlot (valid_of_windowCheck hcheck) hmatch
  | winAck =>
    obtain ⟨_, -, rfl⟩ | ⟨-, rfl⟩ | ⟨-, rfl⟩ | ⟨hcheck, hlow, hcur, rfl⟩ := execWinAck_cases hi
    · exact h.finish _
    · exact h.finish _
    · exact h.finish _
    · exact (h.ackWindow (valid_of_windowCheck hcheck) hlow hcur).finish _
  | winAdvance =>
    obtain ⟨_, -, rfl⟩ | ⟨-, rfl⟩ | ⟨-, rfl⟩ | ⟨hcheck, hmax, hedge, rfl⟩ := execWinAdvance_cases hi
    · exact h.finish _
    · exact h.finish _
    · exact h.finish _
    · exact (h.advanceWindow (valid_of_windowCheck hcheck) hmax hedge).finish _
  | winObserve =>
    obtain ⟨_, -, rfl⟩ | ⟨hcheck, rfl⟩ := execWinObserve_cases hi
    · exact h.finish _
    · obtain ⟨hv, hseq⟩ := seq_le_of_windowCheck hcheck
      refine (h.observeWindow hv ?_).finish _
      split
      · exact hseq
      · exact (h.window hv).range.2

end

theorem stateInv_keptByTurns : KeptByTurns StateInv where
  schedule h := h.putSchedule
  program h := h.putProgram
  bus h := h.putBus
  register h := h.writeReg
  buffer h := h.writeBuf _
  command h := h.exec
  illegal h := h.finish _
  reset h := h.resetBlock

/-- Settles O52: the invariant is kept by each operation a turn is made of. -/
theorem stepKeepsTheInvariant : Obligations.StepKeepsTheInvariant := fun _ _ h hstep =>
  stateInv_keptByTurns.step h hstep

end Sys2Proof.Machine
end

section
/-! PROOFS. 10_state.md R49: what the spec says of the slot array cannot be observed does not influence a step. States
that look alike answer alike under each operation, and so under each turn. -/

namespace Sys2Proof.Machine

/-! ## Slots that look alike -/

section
variable {x y : Slot}

theorem SlotsLookAlike.slotMatches_eq (h : SlotsLookAlike x y) (n : Word) : slotMatches y n = slotMatches x n := by
  obtain ⟨hseq, hocc, -, -⟩ := h
  simp only [slotMatches, hseq, hocc]

theorem SlotsLookAlike.dlen_eq (h : SlotsLookAlike x y) : x.dlen = y.dlen := by
  obtain ⟨-, -, hlen, -⟩ := h
  exact hlen

/-- Of an occupied slot the bytes below `dlen` are the same, and WIN_GET copies no others (43_window.md R134). -/
theorem SlotsLookAlike.slotData_eq (h : SlotsLookAlike x y) (hocc : x.occ = true) (k : Nat) :
    slotData k y = slotData k x := by
  obtain ⟨-, -, hlen, hdata⟩ := h
  simp only [slotData, ← hlen]
  refine List.map_congr_left fun i hi => ?_
  rw [hdata hocc i (List.mem_range.mp hi)]

theorem slotsLookAlike_clearSlot (x y : Slot) : SlotsLookAlike (clearSlot x) (clearSlot y) := ⟨rfl, rfl, rfl, nofun⟩

/-- WIN_ADD writes every byte below the new `dlen`, so the old data cannot be seen any more. -/
theorem slotsLookAlike_filledSlot (x y : Slot) (n : Word) {len : Len} {bytes : List Byte}
    (hbytes : bytes.length = len.toNat) : SlotsLookAlike (filledSlot x n len bytes) (filledSlot y n len bytes) := by
  refine ⟨rfl, rfl, rfl, fun _ i hi => ?_⟩
  have hread (m : Memory) : Memory.read? (m.writeRange 0 bytes) i = bytes[i]? := by
    have hlt : i < bytes.length := hbytes ▸ hi
    simpa [hlt] using Memory.read?_writeRange_of_inside m 0 bytes i hlt
  exact (hread _).trans (hread _).symm

end

/-! ## States that look alike, under each operation on the state -/

section
variable {s t : State}

theorem LookAlike.exists_putSlots (h : LookAlike s t) : ∃ l, t = s.putSlots l := ⟨t.slots, h.rest⟩

/-- An operation that neither reads nor writes the slots, and leaves the window, takes states that look alike to states
that look alike. -/
theorem LookAlike.map {f : State → State} (h : LookAlike s t) (hf : ∀ u l, f (State.putSlots u l) = (f u).putSlots l)
    (hslots : (f s).slots = s.slots) (hwin : (f s).win = s.win) : LookAlike (f s) (f t) := by
  obtain ⟨l, rfl⟩ := h.exists_putSlots
  rw [hf]
  refine ⟨rfl, by rw [hslots]; exact h.length, fun hv k hk => ?_⟩
  rw [hwin] at hv hk
  simpa only [slotAt, hslots, State.putSlots_slots] using h.slots hv k hk

theorem LookAlike.putRes (h : LookAlike s t) (r : Results) : LookAlike (s.putRes r) (t.putRes r) :=
  h.map (f := (State.putRes · r)) (fun _ _ => rfl) rfl rfl

theorem LookAlike.putStatus (h : LookAlike s t) (x : Status) : LookAlike (s.putStatus x) (t.putStatus x) :=
  h.map (f := (State.putStatus · x)) (fun _ _ => rfl) rfl rfl

theorem LookAlike.putArgs (h : LookAlike s t) (x : Args) : LookAlike (s.putArgs x) (t.putArgs x) :=
  h.map (f := (State.putArgs · x)) (fun _ _ => rfl) rfl rfl

theorem LookAlike.putIe (h : LookAlike s t) (x : Bool) : LookAlike (s.putIe x) (t.putIe x) :=
  h.map (f := (State.putIe · x)) (fun _ _ => rfl) rfl rfl

theorem LookAlike.putBus (h : LookAlike s t) (x : BusResponse) : LookAlike (s.putBus x) (t.putBus x) :=
  h.map (f := (State.putBus · x)) (fun _ _ => rfl) rfl rfl

theorem LookAlike.putProgram (h : LookAlike s t) (p : List HostLine) : LookAlike (s.putProgram p) (t.putProgram p) :=
  h.map (f := (State.putProgram · p)) (fun _ _ => rfl) rfl rfl

theorem LookAlike.putSchedule (h : LookAlike s t) (p : List Mover) : LookAlike (s.putSchedule p) (t.putSchedule p) :=
  h.map (f := (State.putSchedule · p)) (fun _ _ => rfl) rfl rfl

/-- A command that moves the window shows no slot that did not belong to it before. -/
theorem LookAlike.putWin {w : Window} (h : LookAlike s t) (hv : s.win.valid = true) (hcap : w.cap = s.win.cap) :
    LookAlike (s.putWin w) (t.putWin w) := by
  obtain ⟨l, rfl⟩ := h.exists_putSlots
  exact ⟨rfl, h.length, fun _ k hk => h.slots hv k (hcap ▸ hk)⟩

theorem LookAlike.finish (h : LookAlike s t) (rc : RC) : LookAlike (finish rc s) (finish rc t) :=
  h.map (f := Machine.finish rc) (fun _ _ => rfl) rfl rfl

theorem LookAlike.accept (h : LookAlike s t) (w : Word) : LookAlike (accept w s) (accept w t) :=
  h.map (f := Machine.accept w) (fun _ _ => rfl) rfl rfl

/-- A reset empties every slot, whatever stood there. -/
theorem LookAlike.resetBlock (h : LookAlike s t) : LookAlike (resetBlock s) (resetBlock t) := by
  obtain ⟨l, rfl⟩ := h.exists_putSlots
  exact ⟨rfl, rfl, nofun⟩

theorem LookAlike.writeBuf (h : LookAlike s t) (b : Buf) (off : Nat) (bytes : List Byte) :
    LookAlike (writeBuf s b off bytes) (writeBuf t b off bytes) :=
  h.map (f := (Machine.writeBuf · b off bytes)) (fun _ _ => rfl) rfl rfl

theorem LookAlike.writeHeader (h : LookAlike s t) (n : Word) (c : Half) (flag : Byte) :
    LookAlike (writeHeader s n c flag) (writeHeader t n c flag) :=
  ((h.writeBuf _ _ _).writeBuf _ _ _).writeBuf _ _ _

theorem LookAlike.setSlot {x y : Slot} (h : LookAlike s t) (k : Nat) (hxy : SlotsLookAlike x y) :
    LookAlike (setSlot s k x) (setSlot t k y) := by
  obtain ⟨l, rfl⟩ := h.exists_putSlots
  refine ⟨rfl, by simpa using h.length, fun hv j hj => ?_⟩
  rw [slotAt_setSlot, slotAt_setSlot, h.length]
  split
  · exact hxy
  · exact h.slots hv j hj

theorem LookAlike.reportSlot {k : Nat} (h : LookAlike s t) (hk : SlotsLookAlike (slotAt s k) (slotAt t k))
    (n : Word) : LookAlike (reportSlot s k n) (reportSlot t k n) := by
  simp only [Machine.reportSlot, hk.slotMatches_eq]
  obtain ⟨hseq, hocc, -, -⟩ := hk
  obtain ⟨l, rfl⟩ := h.exists_putSlots
  rw [← hseq, ← hocc]
  exact h.putRes _

/-- WIN_INIT empties every slot of the window it makes (43_window.md R131). -/
theorem LookAlike.initWindow (h : LookAlike s t) (cap : Word) (chunk : Len) :
    LookAlike ((s.putWin (freshWindow cap chunk)).putSlots (clearSlots cap.toNat s.slots))
      ((t.putWin (freshWindow cap chunk)).putSlots (clearSlots cap.toNat t.slots)) := by
  have hlen := h.length
  obtain ⟨l, rfl⟩ := h.exists_putSlots
  refine ⟨rfl, by simpa using hlen, fun _ k hk => ?_⟩
  have hcap : k < cap.toNat := lt_of_lt_of_le hk (by
    simp only [State.putSlots_win, State.putWin_win, freshWindow, BitVec.toNat_setWidth]
    exact Nat.mod_le _ _)
  simp only [slotAt, State.putSlots_slots, clearSlots_getD, hcap, true_and] at hlen ⊢
  rw [hlen]
  split
  · exact slotsLookAlike_clearSlot _ _
  · next hout =>
    simp only [List.getD_eq_getElem?_getD, List.getElem?_eq_none (Nat.not_lt.mp hout),
      List.getElem?_eq_none (hlen.trans_le (Nat.not_lt.mp hout))]
    exact ⟨rfl, rfl, rfl, fun _ _ _ => rfl⟩

/-! ## What an operation reads of the state does not tell them apart -/

theorem LookAlike.cfg_eq (h : LookAlike s t) : t.cfg = s.cfg := by rw [h.rest]

theorem LookAlike.status_eq (h : LookAlike s t) : t.status = s.status := by rw [h.rest]

theorem LookAlike.latch_eq (h : LookAlike s t) : t.latch = s.latch := by rw [h.rest]

theorem LookAlike.args_eq (h : LookAlike s t) : t.args = s.args := by rw [h.rest]

theorem LookAlike.res_eq (h : LookAlike s t) : t.res = s.res := by rw [h.rest]

theorem LookAlike.win_eq (h : LookAlike s t) : t.win = s.win := by rw [h.rest]

theorem LookAlike.mem_eq (h : LookAlike s t) : t.mem = s.mem := by rw [h.rest]

theorem LookAlike.bus_eq (h : LookAlike s t) : t.bus = s.bus := by rw [h.rest]

theorem LookAlike.program_eq (h : LookAlike s t) : t.program = s.program := by rw [h.rest]

theorem LookAlike.schedule_eq (h : LookAlike s t) : t.schedule = s.schedule := by rw [h.rest]

theorem LookAlike.isBusy_eq (h : LookAlike s t) : isBusy t = isBusy s := by rw [h.rest]; rfl

theorem LookAlike.readBuf_eq (h : LookAlike s t) (b : Buf) (off n : Nat) : readBuf t b off n = readBuf s b off n := by
  simp only [readBuf, h.mem_eq]

theorem LookAlike.windowCheck_eq (h : LookAlike s t) (usesSeq : Bool) :
    windowCheck usesSeq t = windowCheck usesSeq s := by
  simp only [windowCheck, h.win_eq, h.latch_eq]

theorem LookAlike.readReg_eq (h : LookAlike s t) (r : Reg) : readReg r t = readReg r s := by
  obtain ⟨l, rfl⟩ := h.exists_putSlots
  cases r <;> rfl

/-! ## Commands -/

theorem execCksum_lookAlike (h : LookAlike s t) (b : Buf) : OutcomesLookAlike (execCksum b s) (execCksum b t) := by
  simp only [execCksum]
  rw [h.cfg_eq, h.latch_eq, h.res_eq, h.readBuf_eq]
  split
  · exact h.finish _
  · split
    · rfl
    · exact (h.putRes _).finish _

theorem execEncode_lookAlike (h : LookAlike s t) : OutcomesLookAlike (execEncode s) (execEncode t) := by
  simp only [execEncode]
  rw [h.cfg_eq, h.latch_eq, h.res_eq, (h.writeHeader _ _ _).readBuf_eq]
  split
  · exact h.finish _
  · split
    · exact h.finish _
    · split
      · rfl
      · exact ((h.writeHeader _ _ _).putRes _).finish _

theorem execDecode_lookAlike (h : LookAlike s t) : OutcomesLookAlike (execDecode s) (execDecode t) := by
  simp only [execDecode]
  rw [h.cfg_eq, h.latch_eq, h.res_eq, h.status_eq, h.readBuf_eq]
  split
  · exact h.finish _
  · split
    · exact h.finish _
    · split
      · rfl
      · split
        · exact (h.putRes _).finish _
        · exact ((h.putRes _).putStatus _).finish _

theorem execWinInit_lookAlike (h : LookAlike s t) : OutcomesLookAlike (execWinInit s) (execWinInit t) := by
  simp only [execWinInit]
  rw [h.cfg_eq, h.latch_eq]
  split
  · exact h.finish _
  · split
    · exact h.finish _
    · exact (h.initWindow _ _).finish _

/-- The slot a sequence number names is one of the window, where look-alike states agree. -/
theorem LookAlike.slotAt_slotIndex (h : LookAlike s t) (hinv : StateInv s) (hv : s.win.valid = true) (n : Word) :
    SlotsLookAlike (slotAt s (slotIndex s.win n)) (slotAt t (slotIndex s.win n)) :=
  h.slots hv _ (hinv.slotIndex_lt hv n)

theorem execWinAdd_lookAlike (h : LookAlike s t) (hinv : StateInv s) (b : Buf) :
    OutcomesLookAlike (execWinAdd b s) (execWinAdd b t) := by
  simp only [execWinAdd]
  rw [h.windowCheck_eq, h.latch_eq, h.win_eq, h.readBuf_eq]
  split
  · exact h.finish _
  · next hcheck =>
    have hslot := h.slotAt_slotIndex hinv (valid_of_windowCheck hcheck) s.latch.args.seq
    split
    · exact h.finish _
    · split
      · rfl
      · next bytes hread =>
        have hbytes := (readBuf_eq_ok_iff.mp hread).1
        exact ((h.reportSlot hslot _).setSlot _ (slotsLookAlike_filledSlot _ _ _ hbytes)).finish _

theorem execWinRelease_lookAlike (h : LookAlike s t) (hinv : StateInv s) :
    OutcomesLookAlike (execWinRelease s) (execWinRelease t) := by
  simp only [execWinRelease]
  rw [h.windowCheck_eq, h.latch_eq, h.win_eq]
  split
  · exact h.finish _
  · next hcheck =>
    have hslot := h.slotAt_slotIndex hinv (valid_of_windowCheck hcheck) s.latch.args.seq
    exact ((h.reportSlot hslot _).setSlot _ (slotsLookAlike_clearSlot _ _)).finish _

theorem execWinGet_lookAlike (h : LookAlike s t) (hinv : StateInv s) (c : Bool) :
    OutcomesLookAlike (execWinGet c s) (execWinGet c t) := by
  simp only [execWinGet]
  rw [h.windowCheck_eq, h.latch_eq, h.win_eq]
  split
  · exact h.finish _
  · next hcheck =>
    have hslot := h.slotAt_slotIndex hinv (valid_of_windowCheck hcheck) s.latch.args.seq
    have hreport := h.reportSlot hslot s.latch.args.seq
    rw [hslot.slotMatches_eq, hreport.res_eq, ← hslot.dlen_eq]
    split
    · exact hreport.finish _
    · next hmatch =>
      rw [hslot.slotData_eq (occ_of_slotMatches (by simpa using hmatch))]
      split
      · exact ((hreport.putRes _).writeBuf _ _ _).finish _
      · exact (hreport.putRes _).finish _

theorem execWinAck_lookAlike (h : LookAlike s t) : OutcomesLookAlike (execWinAck s) (execWinAck t) := by
  simp only [execWinAck]
  rw [h.windowCheck_eq, h.latch_eq, h.win_eq]
  split
  · exact h.finish _
  · next hcheck =>
    split
    · exact h.finish _
    · split
      · exact h.finish _
      · refine (h.putWin (valid_of_windowCheck hcheck) ?_).finish _
        rfl

theorem execWinAdvance_lookAlike (h : LookAlike s t) : OutcomesLookAlike (execWinAdvance s) (execWinAdvance t) := by
  simp only [execWinAdvance]
  rw [h.windowCheck_eq, h.win_eq]
  split
  · exact h.finish _
  · next hcheck =>
    split
    · exact h.finish _
    · split
      · exact h.finish _
      · refine (h.putWin (valid_of_windowCheck hcheck) ?_).finish _
        rfl

theorem execWinObserve_lookAlike (h : LookAlike s t) : OutcomesLookAlike (execWinObserve s) (execWinObserve t) := by
  simp only [execWinObserve]
  rw [h.windowCheck_eq, h.latch_eq, h.win_eq]
  split
  · exact h.finish _
  · next hcheck =>
    refine (h.putWin (valid_of_windowCheck hcheck) ?_).finish _
    rfl

theorem exec_lookAlike (h : LookAlike s t) (hinv : StateInv s) (i : Instr) :
    OutcomesLookAlike (exec i s) (exec i t) := by
  cases i with
  | nop => exact h.finish _
  | cksum b => exact execCksum_lookAlike h b
  | encode => exact execEncode_lookAlike h
  | decode => exact execDecode_lookAlike h
  | winInit => exact execWinInit_lookAlike h
  | winAdd b => exact execWinAdd_lookAlike h hinv b
  | winRelease => exact execWinRelease_lookAlike h hinv
  | winGet c => exact execWinGet_lookAlike h hinv c
  | winAck => exact execWinAck_lookAlike h
  | winAdvance => exact execWinAdvance_lookAlike h
  | winObserve => exact execWinObserve_lookAlike h

/-! ## Bus accesses -/

theorem LookAlike.submit (h : LookAlike s t) (w : Word) : LookAlike (submit w s) (submit w t) := by
  unfold Machine.submit
  rw [h.isBusy_eq, h.status_eq]
  split
  · exact h.putStatus _
  · exact h.accept w

theorem LookAlike.writeCtrl (h : LookAlike s t) (v : Word) : LookAlike (writeCtrl v s) (writeCtrl v t) := by
  unfold Machine.writeCtrl
  split
  · exact (h.putIe _).resetBlock
  · exact h.putIe _

theorem LookAlike.writeStatus (h : LookAlike s t) (v : Word) : LookAlike (writeStatus v s) (writeStatus v t) := by
  unfold Machine.writeStatus
  rw [h.status_eq]
  exact h.putStatus _

/-- Whether a register takes a write depends on the register alone, and the states it leaves look alike. -/
theorem writeReg_lookAlike (h : LookAlike s t) (r : Reg) (v : Word) :
    Option.Rel LookAlike (writeReg r v s) (writeReg r v t) := by
  cases r
  case ctrl => exact .some (h.writeCtrl v)
  case status => exact .some (h.writeStatus v)
  case cmd => exact .some (h.submit v)
  case argSeq | argFlag | argLen | argCap | argChunk | ckOff | ckLen | rxLen =>
    simp only [writeReg]
    rw [h.args_eq]
    exact .some (h.putArgs _)
  all_goals exact .none

theorem raiseBusError_lookAlike (h : LookAlike s t) (a : Access) :
    OutcomesLookAlike (raiseBusError a s) (raiseBusError a t) := by
  obtain ⟨l, rfl⟩ := h.exists_putSlots
  exact ⟨rfl, (h.putStatus _).putBus _⟩

theorem respondRead_lookAlike (h : LookAlike s t) (v : Word) : LookAlike (respondRead v s) (respondRead v t) :=
  h.putBus _

theorem respondWrite_lookAlike (h : LookAlike s t) : LookAlike (respondWrite s) (respondWrite t) := by
  obtain ⟨l, rfl⟩ := h.exists_putSlots
  exact h.putBus _

theorem accessReg_lookAlike (h : LookAlike s t) (r : Reg) (a : Access) :
    OutcomesLookAlike (accessReg r a s) (accessReg r a t) := by
  have hwrite := writeReg_lookAlike h r a.wdata
  unfold accessReg
  split
  · exact raiseBusError_lookAlike h a
  · split
    · cases hs : writeReg r a.wdata s <;> cases ht : writeReg r a.wdata t <;> rw [hs, ht] at hwrite
      · exact raiseBusError_lookAlike h a
      · cases hwrite
      · cases hwrite
      · cases hwrite with
        | some hu => exact respondWrite_lookAlike hu
    · rw [h.readReg_eq]
      exact respondRead_lookAlike h _

theorem accessByte_lookAlike (h : LookAlike s t) (b : Buf) (off : Nat) (a : Access) :
    OutcomesLookAlike (accessByte b off a s) (accessByte b off a t) := by
  unfold accessByte
  rw [h.readBuf_eq]
  split
  · exact respondWrite_lookAlike (h.writeBuf _ _ _)
  · split
    · rfl
    · exact respondRead_lookAlike h _

theorem accessWord_lookAlike (h : LookAlike s t) (b : Buf) (off : Nat) (a : Access) :
    OutcomesLookAlike (accessWord b off a s) (accessWord b off a t) := by
  unfold accessWord
  rw [h.readBuf_eq]
  split
  · exact respondWrite_lookAlike (h.writeBuf _ _ _)
  · split
    · rfl
    · exact respondRead_lookAlike h _

theorem accessBuf_lookAlike (h : LookAlike s t) (b : Buf) (off : Nat) (a : Access) :
    OutcomesLookAlike (accessBuf b off a s) (accessBuf b off a t) := by
  unfold accessBuf
  rw [h.isBusy_eq]
  split
  · exact raiseBusError_lookAlike h a
  · split
    · exact accessByte_lookAlike h b off a
    · split
      · exact accessWord_lookAlike h b off a
      · exact raiseBusError_lookAlike h a
    · exact raiseBusError_lookAlike h a
    · exact raiseBusError_lookAlike h a

theorem busAccess_lookAlike (h : LookAlike s t) (a : Access) :
    OutcomesLookAlike (busAccess a s) (busAccess a t) := by
  unfold busAccess
  rw [h.cfg_eq]
  split
  · exact accessReg_lookAlike h _ a
  · exact accessBuf_lookAlike h _ _ a
  · exact raiseBusError_lookAlike h a

/-! ## Turns and steps -/

/-- Outcomes that look alike are of one kind. -/
theorem OutcomesLookAlike.cases {o o' : Result} (h : OutcomesLookAlike o o') :
    (∃ u v, o = .next u ∧ o' = .next v ∧ LookAlike u v) ∨
    (∃ f g, o = .fault f ∧ o' = .fault g ∧ OutcomesLookAlike (.fault f) (.fault g)) ∨
    (∃ r, o = .refused r ∧ o' = .refused r) := by
  cases o with
  | next u =>
    cases o' with
    | next v => exact .inl ⟨u, v, rfl, rfl, h⟩
    | fault g => exact h.elim
    | refused q => exact h.elim
  | fault f =>
    cases o' with
    | next v => cases f <;> exact h.elim
    | fault g => exact .inr (.inl ⟨f, g, rfl, rfl, h⟩)
    | refused q => cases f <;> exact h.elim
  | refused r =>
    cases o' with
    | next v => exact h.elim
    | fault g => exact h.elim
    | refused q => exact .inr (.inr ⟨r, rfl, congrArg _ h.symm⟩)

theorem hostTurn_lookAlike (h : LookAlike s t) : OutcomesLookAlike (hostTurn s) (hostTurn t) := by
  unfold hostTurn
  rw [h.program_eq]
  split
  · exact h
  · simp only [hostAccess_eq]
    exact busAccess_lookAlike (h.putProgram _) _
  · simp only [hostAccess_eq]
    obtain ⟨u, v, hu, hv, huv⟩ | ⟨f, g, hf, hg, hfg⟩ | ⟨r, hr, hr'⟩ :=
      (busAccess_lookAlike h (read32 (regOffset .status))).cases
    · simp only [hu, hv]
      rw [huv.bus_eq]
      split
      · exact huv
      · exact huv.putProgram _
    · simpa only [hf, hg] using hfg
    · simp only [hr, hr', OutcomesLookAlike]
  · next off _ rest _ =>
    simp only [hostAccess_eq]
    obtain ⟨u, v, hu, hv, huv⟩ | ⟨f, g, hf, hg, hfg⟩ | ⟨r, hr, hr'⟩ :=
      (busAccess_lookAlike (h.putProgram rest) (read32 off)).cases
    · simp only [hu, hv]
      rw [huv.bus_eq]
      split
      · exact huv
      · exact ⟨rfl, rfl⟩
    · simpa only [hf, hg] using hfg
    · simp only [hr, hr', OutcomesLookAlike]

theorem engineTurn_lookAlike (h : LookAlike s t) (hinv : StateInv s) :
    OutcomesLookAlike (engineTurn s) (engineTurn t) := by
  unfold engineTurn
  rw [h.isBusy_eq, h.latch_eq]
  split
  · split
    · exact exec_lookAlike h hinv _
    · exact h.finish _
  · exact h

theorem step_lookAlike (h : LookAlike s t) (hinv : StateInv s) : OutcomesLookAlike (step s) (step t) := by
  unfold step defaultTurn
  rw [h.schedule_eq, h.isBusy_eq]
  split
  · split
    · exact engineTurn_lookAlike h hinv
    · exact hostTurn_lookAlike h
  · exact hostTurn_lookAlike (h.putSchedule _)
  · exact engineTurn_lookAlike (h.putSchedule _) (hinv.putSchedule _)
  · exact (h.putSchedule _).resetBlock

end

/-- Settles O55: every turn takes states that look alike to outcomes that look alike. -/
theorem hiddenSlotContentsAreNotObservable : Obligations.HiddenSlotContentsAreNotObservable := fun _ _ hinv h =>
  step_lookAlike h hinv

end Sys2Proof.Machine
end

section
/-! PROOFS. 10_state.md R20 to R48: the fields of the registers as a bus read gives them, and what a write to CTRL, to
STATUS and to an argument register changes. -/

namespace Sys2Proof.Machine

/-! ## Field bits -/

/-- The mask of the low `n` bits takes a word modulo `2 ^ n`. -/
theorem toNat_and_lowMask {n : Nat} (hn : n ≤ 32) (x : Word) :
    (x &&& BitVec.ofNat 32 (2 ^ n - 1)).toNat = x.toNat % 2 ^ n := by
  have hmask : 2 ^ n - 1 < 2 ^ 32 :=
    (Nat.sub_lt (Nat.two_pow_pos n) one_pos).trans_le (Nat.pow_le_pow_right (by decide) hn)
  rw [BitVec.toNat_and, BitVec.toNat_ofNat, Nat.mod_eq_of_lt hmask, Nat.and_two_pow_sub_one_eq_mod]

theorem and_lowMask_of_lt {x : Word} {n : Nat} (hn : n ≤ 32) (hx : x.toNat < 2 ^ n) :
    x &&& BitVec.ofNat 32 (2 ^ n - 1) = x :=
  BitVec.eq_of_toNat_eq ((toNat_and_lowMask hn x).trans (Nat.mod_eq_of_lt hx))

/-- A field of `n` bits, zero-extended to a register. -/
theorem setWidth_and_lowMask {n : Nat} (hn : n ≤ 32) (x : BitVec n) :
    x.setWidth 32 &&& BitVec.ofNat 32 (2 ^ n - 1) = x.setWidth 32 :=
  and_lowMask_of_lt hn ((BitVec.toNat_setWidth_of_le hn).trans_lt x.isLt)

/-- Writing a word to a field of `n` bits and reading the register back masks the word. -/
theorem setWidth_setWidth_eq_and_lowMask {n : Nat} (hn : n ≤ 32) (v : Word) :
    (v.setWidth n).setWidth 32 = v &&& BitVec.ofNat 32 (2 ^ n - 1) := by
  apply BitVec.eq_of_toNat_eq
  rw [BitVec.toNat_setWidth_of_le hn, BitVec.toNat_setWidth, toNat_and_lowMask hn]

theorem toNat_setWidth_ofBool (b : Bool) : ((BitVec.ofBool b).setWidth 32).toNat = b.toNat := by
  rw [BitVec.toNat_setWidth_of_le (by decide), BitVec.toNat_ofBool]

/-- PARAM as a number: CAP_MAX fits the 17 bits below PAYLOAD_MAX (10_state.md R26). -/
theorem paramWord_toNat {c : Config} (hc : c.wf = true) : (paramWord c).toNat = c.capMax + c.payloadMax * 2 ^ 17 := by
  have hcap := Config.capMax_le hc
  have hpay := Config.payloadMax_le hc
  simp only [paramWord, BitVec.toNat_or, BitVec.toNat_shiftLeft, BitVec.toNat_ofNat]
  rw [Nat.mod_eq_of_lt (by omega : c.capMax < 2 ^ 32), Nat.mod_eq_of_lt (by omega : c.payloadMax < 2 ^ 32),
    Nat.mod_eq_of_lt (by rw [Nat.shiftLeft_eq]; omega), Nat.or_comm,
    ← Nat.shiftLeft_add_eq_or_of_lt (by omega : c.capMax < 2 ^ 17), Nat.shiftLeft_eq, Nat.add_comm]

/-- Each bit of STATUS (10_state.md R24). -/
theorem statusWord_bit (s : State) {i : Nat} (hi : i < 32) : (statusWord s).getLsbD i =
    (decide (i = 0) && isBusy s || decide (i = 1) && s.status.done || decide (i = 2) && s.status.overrun ||
      decide (i = 3) && s.status.busErr || decide (8 ≤ i) && (rcCode s.status.rc).getLsbD (i - 8) ||
      decide (i = 16) && s.status.flagKnown) := by
  rw [statusWord_getLsbD]
  simp only [BitVec.getLsbD_append, BitVec.getLsbD_ofBool, BitVec.getLsbD_zero]
  interval_cases i <;> simp

/-- RC stands in bits 11:8 (10_state.md R24). -/
theorem statusWord_rc (s : State) : (statusWord s).extractLsb' 8 4 = rcCode s.status.rc := by
  apply BitVec.eq_of_getLsbD_eq
  intro i hi
  rw [BitVec.getLsbD_extractLsb', statusWord_bit s (by omega)]
  interval_cases i <;> simp

theorem rcCode_toNat_le (r : RC) : (rcCode r).toNat ≤ 13 := by cases r <;> decide

/-- No two result codes share a number (60_exceptions.md R151). -/
theorem rcCode_toNat_inj (r q : RC) : r = q ↔ (rcCode r).toNat = (rcCode q).toNat := by
  cases r <;> cases q <;> decide

/-- Settles O22: each bit by the equation for STATUS's bits, each result code by its number. -/
theorem statusBitsStandWhereTheSpecPutsThem : Obligations.StatusBitsStandWhereTheSpecPutsThem := by
  intro s
  have hcode (q : RC) : s.status.rc = q ↔ ((statusWord s).extractLsb' 8 4).toNat = (rcCode q).toNat := by
    rw [statusWord_rc]
    exact rcCode_toNat_inj _ q
  refine ⟨(statusWord_bit s (by decide)).trans ?_, (statusWord_bit s (by decide)).trans ?_,
    (statusWord_bit s (by decide)).trans ?_, (statusWord_bit s (by decide)).trans ?_,
    (statusWord_bit s (by decide)).trans ?_, statusWord_rc s,
    (congrArg BitVec.toNat (statusWord_rc s)).trans_le (rcCode_toNat_le _),
    hcode .ok, hcode .cksumFail, hcode .short, hcode .len, hcode .range, hcode .flag, hcode .noInit, hcode .cfg,
    hcode .seqRange, hcode .noMatch, hcode .stale, hcode .ahead, hcode .full, hcode .badCmd⟩ <;> simp

/-! ## Reserved bits -/

/-- STATUS has no bit outside its named fields. -/
theorem statusWord_and_fieldMask (s : State) : statusWord s &&& fieldMask .status = statusWord s := by
  apply BitVec.eq_of_getLsbD_eq
  intro i hi
  rw [BitVec.getLsbD_and, statusWord_bit s hi]
  interval_cases i <;> simp [fieldMask]

/-- What a register reads as lies in its named field bits. -/
theorem readReg_and_fieldMask {s : State} (hc : s.cfg.wf = true) (r : Reg) :
    readReg r s &&& fieldMask r = readReg r s := by
  cases r
  case status => exact statusWord_and_fieldMask s
  case param =>
    have hcap := Config.capMax_le hc
    have hpay := Config.payloadMax_le hc
    exact and_lowMask_of_lt (n := 28) (by decide) (by simp only [readReg, paramWord_toNat hc]; omega)
  case cmd => exact BitVec.zero_and
  case id | argSeq | argCap | resSeq | resSlotSeq | winLowest | winCurrent | winEdge | winHwm =>
    exact and_lowMask_of_lt (n := 32) (by decide) (BitVec.isLt _)
  all_goals exact setWidth_and_lowMask (by decide) _

/-- Settles O23: a register's value is its own under the mask of its fields. -/
theorem reservedBitsReadZero : Obligations.ReservedBitsReadZero := by
  intro s r hc
  calc readReg r s &&& ~~~fieldMask r = (readReg r s &&& fieldMask r) &&& ~~~fieldMask r := by
        rw [readReg_and_fieldMask hc]
    _ = 0 := by
        rw [BitVec.and_assoc, BitVec.and_not_self]
        exact BitVec.and_zero

/-! ## What a read of each register answers -/

theorem busRead_answers {s : State} {r : Reg} {n : Nat} (h : (readReg r s).toNat = n) :
    ∃ t, busAccess (read32 (regOffset r)) s = .next t ∧ t.bus.err = false ∧ t.bus.rdata.toNat = n :=
  ⟨_, busAccess_read32 r s, rfl, h⟩

/-- Settles O58: a read answers the register's field, zero-extended. -/
theorem registerReadsAnswerTheirFields : Obligations.RegisterReadsAnswerTheirFields := by
  intro s hc
  have field {n : Nat} (x : BitVec n) (hn : n ≤ 32) : (x.setWidth 32).toNat = x.toNat :=
    BitVec.toNat_setWidth_of_le hn
  refine ⟨⟨?id, ?ctrl, ?cmd, ?param⟩, ⟨?argSeq, ?argFlag, ?argLen, ?argCap, ?argChunk, ?ckOff, ?ckLen, ?rxLen⟩,
    ⟨?resSeq, ?resFlag, ?resLen, ?resCksum, ?txLen, ?resSlot, ?resSlotSeq⟩,
    ⟨?winCap, ?winChunk, ?winLowest, ?winCurrent, ?winEdge, ?winHwm, ?winStat⟩⟩ <;> apply busRead_answers
  case ctrl | winStat => exact toNat_setWidth_ofBool _
  case param => exact paramWord_toNat hc
  case id | cmd | argSeq | argCap | resSeq | resSlotSeq | winLowest | winCurrent | winEdge | winHwm => rfl
  all_goals exact field _ (by decide)

/-! ## Writes -/

theorem readReg_respondWrite (r : Reg) (s : State) : readReg r (respondWrite s) = readReg r s := by cases r <;> rfl

theorem ofBool_getLsbD_zero (v : Word) : BitVec.ofBool (v.getLsbD 0) = v.setWidth 1 := by
  apply BitVec.eq_of_getLsbD_eq
  intro i hi
  obtain rfl : i = 0 := by omega
  simp

theorem readReg_putIe_of_ne {q : Reg} (hq : q ≠ .ctrl) (x : Bool) (s : State) :
    readReg q (s.putIe x) = readReg q s := by
  cases q
  case ctrl => exact absurd rfl hq
  all_goals rfl

/-- Settles O57: with SRST 0 the write sets IE and does nothing else. -/
theorem ctrlWriteSetsOnlyEnable : Obligations.CtrlWriteSetsOnlyEnable := by
  intro s v hsrst
  have hwrite : writeReg .ctrl v s = some (s.putIe (v.getLsbD 0)) := by
    simp only [writeReg, writeCtrl, hsrst, Bool.false_eq_true, if_false]
  refine ⟨_, busAccess_write hwrite, ?enable, fun q hq => ?others, fun _ => rfl, rfl⟩
  case enable =>
    have hbit : (BitVec.ofBool (v.getLsbD 0)).setWidth 32 = v &&& 1 := by
      rw [ofBool_getLsbD_zero]
      exact setWidth_setWidth_eq_and_lowMask (by decide) v
    exact hbit
  case others => rw [readReg_respondWrite, readReg_putIe_of_ne hq]

/-- Of the bits written as 1, those of DONE, OVERRUN and BUSERR clear (10_state.md R24). -/
theorem statusWord_writeStatus (v : Word) (s : State) :
    statusWord (writeStatus v s) = statusWord s &&& ~~~(v &&& 0xE) := by
  apply BitVec.eq_of_getLsbD_eq
  intro i hi
  rw [BitVec.getLsbD_and, BitVec.getLsbD_not, BitVec.getLsbD_and, statusWord_bit s hi, statusWord_bit _ hi]
  interval_cases i <;> simp [writeStatus, isBusy]

/-- Settles O21: the write acts on DONE, OVERRUN and BUSERR alone. -/
theorem statusWritesOnlyClearWrittenBits : Obligations.StatusWritesOnlyClearWrittenBits := fun s v =>
  ⟨_, busAccess_write rfl, statusWord_writeStatus v s, rfl, rfl⟩

/-- A write to an argument register sets argument registers alone. -/
theorem writeReg_of_isArgReg {r : Reg} (h : isArgReg r = true) (v : Word) (s : State) :
    ∃ x, writeReg r v s = some (s.putArgs x) := by
  cases r <;> cases h <;> exact ⟨_, rfl⟩

theorem readReg_writeReg_same {r : Reg} {v : Word} {s u : State} (h : isArgReg r = true)
    (hw : writeReg r v s = some u) : readReg r u = v &&& fieldMask r := by
  cases r <;> cases h <;> cases hw
  case argSeq | argCap => exact (BitVec.and_allOnes).symm
  all_goals exact setWidth_setWidth_eq_and_lowMask (by decide) v

/-- Every other register reads a field of the state that the write leaves. -/
theorem readReg_writeReg_of_ne {r q : Reg} {v : Word} {s u : State} (h : isArgReg r = true)
    (hw : writeReg r v s = some u) (hq : q ≠ r) : readReg q u = readReg q s := by
  cases r <;> cases h <;> cases hw
  all_goals cases q <;> trivial

/-- Settles O20: the write takes the register's field bits and leaves every other register. -/
theorem argumentRegistersKeepTheirFieldBits : Obligations.ArgumentRegistersKeepTheirFieldBits := by
  intro s r v hr
  obtain ⟨x, hw⟩ := writeReg_of_isArgReg hr v s
  refine ⟨_, busAccess_write hw, ?same, fun q hq => ?others, fun _ => rfl, rfl, rfl, rfl⟩
  case same => rw [readReg_respondWrite, readReg_writeReg_same hr hw]
  case others => rw [readReg_respondWrite, readReg_writeReg_of_ne hr hw hq]

end Sys2Proof.Machine
end

section
/-! PROOFS. 20_memory.md: which bus accesses are legal, what a read and a buffer write leave, the byte lanes of a word,
and the state a bus error leaves. -/

namespace Sys2Proof.Machine

/-! ## Outcomes that are no bus error -/

/-- The outcome is no bus error (20_memory.md R64). -/
def NoBusError (o : Result) : Prop := ∀ addr t, o ≠ .fault (.busError addr t)

@[simp] theorem noBusError_next (t : State) : NoBusError (.next t) := by simp [NoBusError]

@[simp] theorem noBusError_unwrittenByte (n : Nat) : NoBusError (.fault (.unwrittenByte n)) := by
  simp [NoBusError]

section
variable {s t : State} {a : Access} {b : Buf} {i : Nat}

theorem accessByte_noBusError : NoBusError (accessByte b i a s) := by
  unfold accessByte
  split
  · exact noBusError_next _
  · split <;> simp only [noBusError_next, noBusError_unwrittenByte]

theorem accessWord_noBusError : NoBusError (accessWord b i a s) := by
  unfold accessWord
  split
  · exact noBusError_next _
  · split <;> simp only [noBusError_next, noBusError_unwrittenByte]

/-- A command that stops does so at its buffer read, so no command is a bus error. -/
theorem exec_noBusError (c : Instr) (s : State) : NoBusError (exec c s) := by
  cases c with
  | nop => exact noBusError_next _
  | cksum b =>
    simp only [exec, execCksum]
    split
    · exact noBusError_next _
    · split <;> simp only [noBusError_next, noBusError_unwrittenByte]
  | encode =>
    simp only [exec, execEncode]
    split
    · exact noBusError_next _
    · split
      · exact noBusError_next _
      · split <;> simp only [noBusError_next, noBusError_unwrittenByte]
  | decode =>
    simp only [exec, execDecode]
    split
    · exact noBusError_next _
    · split
      · exact noBusError_next _
      · split
        · exact noBusError_unwrittenByte _
        · split <;> simp only [noBusError_next]
  | winInit =>
    simp only [exec, execWinInit]
    split
    · exact noBusError_next _
    · split <;> simp only [noBusError_next]
  | winAdd b =>
    simp only [exec, execWinAdd]
    split
    · exact noBusError_next _
    · split
      · exact noBusError_next _
      · split <;> simp only [noBusError_next, noBusError_unwrittenByte]
  | winRelease =>
    simp only [exec, execWinRelease]
    split <;> simp only [noBusError_next]
  | winGet copy =>
    simp only [exec, execWinGet]
    split
    · exact noBusError_next _
    · split <;> simp only [noBusError_next]
  | winAck =>
    simp only [exec, execWinAck]
    split
    · exact noBusError_next _
    · split
      · exact noBusError_next _
      · split <;> simp only [noBusError_next]
  | winAdvance =>
    simp only [exec, execWinAdvance]
    split
    · exact noBusError_next _
    · split
      · exact noBusError_next _
      · split <;> simp only [noBusError_next]
  | winObserve =>
    simp only [exec, execWinObserve]
    split <;> simp only [noBusError_next]

/-! ## Legal accesses -/

theorem writeReg_eq_none_iff {r : Reg} {v : Word} : writeReg r v s = none ↔ regWritable r = false := by
  cases r <;> simp [writeReg, regWritable]

/-- A 32-bit access to a register that allows it answers a next state (20_memory.md R63). -/
theorem accessReg_of_legal {r : Reg} (hsize : a.size = .word) (hwr : a.write = true → regWritable r = true) :
    ∃ t, accessReg r a s = .next t := by
  cases hw : a.write with
  | false => exact ⟨respondRead (readReg r s) s, by simp [accessReg, hsize, hw]⟩
  | true =>
    cases hu : writeReg r a.wdata s with
    | none => simp [hw, writeReg_eq_none_iff.mp hu] at hwr
    | some u => exact ⟨respondWrite u, by simp [accessReg, hsize, hw, hu]⟩

theorem accessReg_of_not_legal {r : Reg} (h : ¬(a.size = .word ∧ (a.write = true → regWritable r = true))) :
    accessReg r a s = raiseBusError a s := by
  unfold accessReg
  split
  · rfl
  · next hsize =>
    obtain ⟨hw, hro⟩ := Classical.not_imp.mp fun hwr => h ⟨not_not.mp hsize, hwr⟩
    rw [if_pos hw, writeReg_eq_none_iff.mpr (Bool.eq_false_of_not_eq_true hro)]

/-- A buffer access is legal while idle, at a size and an alignment of 20_memory.md R63. -/
theorem accessBuf_of_not_legal (h : ¬(s.engine = .idle ∧ (a.size = .byte ∨ (a.size = .word ∧ i % 4 = 0)))) :
    accessBuf b i a s = raiseBusError a s := by
  unfold accessBuf
  split
  · rfl
  · next hbusy =>
    have hsize : ¬(a.size = .byte ∨ (a.size = .word ∧ i % 4 = 0)) := fun hsize =>
      h ⟨isBusy_eq_false.mp (Bool.eq_false_of_not_eq_true hbusy), hsize⟩
    split
    · next hb => exact absurd (.inl hb) hsize
    · next hw => rw [if_neg fun h4 => hsize (.inr ⟨hw, h4⟩)]
    · rfl
    · rfl

theorem accessBuf_noBusError (hidle : s.engine = .idle) (h : a.size = .byte ∨ (a.size = .word ∧ i % 4 = 0)) :
    NoBusError (accessBuf b i a s) := by
  have hnb := isBusy_eq_false.mpr hidle
  obtain hb | ⟨hw, h4⟩ := h
  · simpa only [accessBuf, hnb, hb, Bool.false_eq_true, if_false] using accessByte_noBusError
  · simpa only [accessBuf, hnb, hw, h4, Bool.false_eq_true, if_false, if_true] using accessWord_noBusError

theorem busAccess_eq_accessReg {r : Reg} (ha : a.addr = regOffset r) : busAccess a s = accessReg r a s := by
  simp only [busAccess, ha, regionOf_regOffset]

/-- Whatever region the offset names, an access that is not legal there is a bus error. -/
theorem busAccess_of_not_legal (h : ¬LegalAccess s a) : busAccess a s = raiseBusError a s := by
  unfold busAccess
  split
  · next r hr =>
    have haddr : a.addr = regOffset r := BitVec.eq_of_toNat_eq (regionOf_eq_reg hr)
    exact accessReg_of_not_legal fun ⟨hsize, hwr⟩ => h (.inl ⟨hsize, r, haddr, hwr⟩)
  · next b i hb =>
    obtain ⟨haddr, hi⟩ := regionOf_eq_buf hb
    exact accessBuf_of_not_legal fun ⟨hidle, hsize⟩ => h (.inr ⟨hidle, b, i, hi, haddr, hsize⟩)
  · rfl

theorem busAccess_noBusError_of_legal (hc : s.cfg.wf = true) (h : LegalAccess s a) : NoBusError (busAccess a s) := by
  obtain ⟨hsize, r, haddr, hwr⟩ | ⟨hidle, b, i, hi, haddr, hsize⟩ := h
  · obtain ⟨t, ht⟩ := accessReg_of_legal (s := s) hsize hwr
    rw [busAccess_eq_accessReg haddr, ht]
    exact noBusError_next t
  · have hoff : a.addr = bufOffset b i := BitVec.eq_of_toNat_eq (haddr.trans (bufOffset_toNat hc b hi).symm)
    rw [busAccess_eq_accessBuf hc hi hoff]
    exact accessBuf_noBusError hidle hsize

/-- While busy only the registers can be accessed (20_memory.md R65). -/
theorem not_legalAccess_of_inBuffer (hbusy : s.engine = .busy) (hin : InBuffer s.cfg a.addr.toNat) :
    ¬LegalAccess s a := by
  rintro (⟨-, r, haddr, -⟩ | ⟨hidle, -⟩)
  · have := regOffset_lt r
    rw [haddr] at hin
    simp only [InBuffer] at hin
    omega
  · simp [hbusy] at hidle

/-! ## Reads -/

theorem readReg_putBus (r : Reg) (s : State) (x : BusResponse) : readReg r (s.putBus x) = readReg r s := by
  cases r <;> rfl

theorem raiseBusError_putBus (hw : a.write = false) (x : BusResponse) :
    raiseBusError a (s.putBus x) = raiseBusError a s := by
  simp only [raiseBusError, busErrorState, hw]
  rfl

/-- A read does not see the response to the access before it. -/
theorem busAccess_putBus (hw : a.write = false) (x : BusResponse) : busAccess a (s.putBus x) = busAccess a s := by
  unfold busAccess
  rw [State.putBus_cfg]
  split
  · next r _ =>
    simp only [accessReg, hw, raiseBusError_putBus hw, readReg_putBus]
    rfl
  · next b i _ =>
    have hbyte : accessByte b i a (s.putBus x) = accessByte b i a s := by
      simp only [accessByte, hw]
      rfl
    have hword : accessWord b i a (s.putBus x) = accessWord b i a s := by
      simp only [accessWord, hw]
      rfl
    simp only [accessBuf, hbyte, hword, raiseBusError_putBus hw]
    rfl
  · exact raiseBusError_putBus hw x

/-- A read that completes leaves the state as it was, but for its answer. -/
theorem exists_respondRead_of_read (hw : a.write = false) (h : busAccess a s = .next t) : ∃ v, t = respondRead v s := by
  obtain ⟨r, -, -, -, ht⟩ | ⟨r, u, -, -, hwr, -⟩ | ⟨-, -, v, ht⟩ | ⟨-, hwr, -⟩ := busAccess_cases h
  · exact ⟨_, ht⟩
  · simp [hw] at hwr
  · exact ⟨v, ht⟩
  · simp [hw] at hwr

/-! ## A pending command -/

/-- A register write while busy, but for a soft reset, sets CTRL.IE, sticky STATUS bits or argument registers. -/
theorem writeReg_cases_of_busy {r : Reg} {v : Word} (hbusy : s.engine = .busy)
    (hsrst : ¬(r = .ctrl ∧ v.getLsbD 1 = true)) (h : writeReg r v s = some t) :
    (∃ x, t = s.putIe x) ∨ (∃ x, x.rc = s.status.rc ∧ x.flagKnown = s.status.flagKnown ∧ t = s.putStatus x) ∨
    ∃ x, t = s.putArgs x := by
  cases r <;> cases h
  case ctrl => exact .inl ⟨_, by rw [writeCtrl, if_neg fun hv => hsrst ⟨rfl, hv⟩]⟩
  case status => exact .inr (.inl ⟨(writeStatus v s).status, rfl, rfl, rfl⟩)
  case cmd => exact .inr (.inl ⟨{ s.status with overrun := true }, rfl, rfl, submit_of_busy v hbusy⟩)
  all_goals exact .inr (.inr ⟨_, rfl⟩)

/-! ## Buffer writes and the reads after them -/

/-- A range of the bytes just written reads as those bytes. -/
theorem readBuf_writeBuf (s : State) (b : Buf) (i : Nat) (bytes : List Byte) {k n : Nat} (h : k + n ≤ bytes.length) :
    readBuf (writeBuf s b i bytes) b (i + k) n = .ok ((bytes.drop k).take n) := by
  refine readBuf_eq_ok_iff.mpr ⟨by simp only [List.length_take, List.length_drop]; omega, fun j hj => ?_⟩
  simp only [List.length_take, List.length_drop] at hj
  have haddr : bufAddr b (i + k + j) = bufAddr b i + (k + j) := by simp only [bufAddr]; omega
  rw [haddr, writeBuf_mem, Memory.read?_writeRange_of_inside _ _ _ (k + j) (by omega)]
  simp

theorem sameMemoryOutside_writeBuf (s : State) (b : Buf) (i : Nat) (bytes : List Byte) :
    SameMemoryOutside (bufAddr b i) bytes.length s (respondWrite (writeBuf s b i bytes)) := fun _ =>
  Memory.read?_writeRange_of_outside _ _ _

theorem Memory.writeRange_append (m : Memory) (a : Nat) (xs ys : List Byte) :
    m.writeRange a (xs ++ ys) = (m.writeRange a xs).writeRange (a + xs.length) ys := by
  induction xs generalizing m a with
  | nil => rfl
  | cons x xs ih =>
    rw [List.cons_append, Memory.writeRange, ih, Memory.writeRange, List.length_cons, Nat.add_assoc, Nat.add_comm 1]

/-- Two buffer accesses that write adjacent bytes leave what one write of them all leaves. -/
theorem respondWrite_writeBuf_append (s : State) (b : Buf) (i : Nat) (xs ys : List Byte) :
    respondWrite (writeBuf (respondWrite (writeBuf s b i xs)) b (i + xs.length) ys) =
      respondWrite (writeBuf s b i (xs ++ ys)) := by
  have hmem : (writeBuf s b i (xs ++ ys)).mem = (writeBuf (writeBuf s b i xs) b (i + xs.length) ys).mem := by
    simp only [writeBuf_mem, Memory.writeRange_append, bufAddr, Nat.add_assoc]
  simp only [writeBuf_mem] at hmem
  simp only [writeBuf, hmem]
  rfl

theorem busAccess_byteWrite (b : Buf) (v : Word) (hc : s.cfg.wf = true) (hidle : s.engine = .idle)
    (hi : i < bufSize s.cfg) :
    busAccess (byteAccess true b i v) s = .next (respondWrite (writeBuf s b i [v.setWidth 8])) := by
  rw [busAccess_byteAccess true v hc hidle hi]
  rfl

/-- A byte write right after the bytes just written adds its byte to them. -/
theorem busAccess_byteWrite_append (b : Buf) (v : Word) (xs : List Byte) (hc : s.cfg.wf = true)
    (hidle : s.engine = .idle) (hi : i + xs.length < bufSize s.cfg) :
    busAccess (byteAccess true b (i + xs.length) v) (respondWrite (writeBuf s b i xs)) =
      .next (respondWrite (writeBuf s b i (xs ++ [v.setWidth 8]))) := by
  rw [busAccess_byteWrite (s := respondWrite (writeBuf s b i xs)) b v hc hidle hi, respondWrite_writeBuf_append]

theorem busAccess_wordWrite (b : Buf) (v : Word) (hc : s.cfg.wf = true) (hidle : s.engine = .idle)
    (hi : i < bufSize s.cfg) (h4 : i % 4 = 0) :
    busAccess (wordAccess true b i v) s = .next (respondWrite (writeBuf s b i (be32Bytes v))) := by
  rw [busAccess_wordAccess true v hc hidle hi h4]
  rfl

theorem busAccess_byteRead {x : Byte} (hc : s.cfg.wf = true) (hidle : s.engine = .idle) (hi : i < bufSize s.cfg)
    (h : readBuf s b i 1 = .ok [x]) : busAccess (byteAccess false b i 0) s = .next (respondRead (x.setWidth 32) s) := by
  rw [busAccess_byteAccess false 0 hc hidle hi]
  simp [accessByte, byteAccess, h]

theorem busAccess_wordRead {x0 x1 x2 x3 : Byte} (hc : s.cfg.wf = true) (hidle : s.engine = .idle)
    (hi : i < bufSize s.cfg) (h4 : i % 4 = 0) (h : readBuf s b i 4 = .ok [x0, x1, x2, x3]) :
    busAccess (wordAccess false b i 0) s = .next (respondRead (be32 x0 x1 x2 x3) s) := by
  rw [busAccess_wordAccess false 0 hc hidle hi h4]
  simp [accessWord, wordAccess, h]

/-- A word at an aligned offset inside the buffer lies inside it with all its bytes. -/
theorem add_lt_bufSize {c : Config} {k : Nat} (hi : i < bufSize c) (h4 : i % 4 = 0) (hk : k < 4) :
    i + k < bufSize c := by
  have := bufSize_mod_four c
  omega

/-! ## The state a bus error leaves -/

theorem StateInv.busErrorState (h : StateInv s) (a : Access) : StateInv (busErrorState a s) :=
  (h.putStatus (x := { s.status with busErr := true }) id).putBus _

theorem busAccess_busError {addr : BusOffset} (h : busAccess a s = .fault (.busError addr t)) :
    t = busErrorState a s := by
  obtain hf | ⟨b, i, hf⟩ := busAccess_fault h
  · cases hf
    rfl
  · cases hf

theorem hostTurn_busError {addr : BusOffset} (h : hostTurn s = .fault (.busError addr t)) :
    ∃ a p, t = busErrorState a (s.putProgram p) := by
  unfold hostTurn at h
  split at h
  · cases h
  · next a rest _ => exact ⟨a, rest, busAccess_busError (hostAccess_eq _ _ ▸ h)⟩
  · rw [hostAccess_eq, busAccess_read32] at h
    cases h
  · next off _ rest _ =>
    rw [hostAccess_eq] at h
    split at h
    · split at h <;> cases h
    · next hf =>
      cases h
      exact ⟨read32 off, rest, busAccess_busError hf⟩
    · cases h

theorem engineTurn_noBusError (s : State) : NoBusError (engineTurn s) := by
  unfold engineTurn
  split
  · split
    · exact exec_noBusError _ s
    · exact noBusError_next _
  · exact noBusError_next _

/-- Only the host's turn ends in a bus error, so the state it leaves is that of an access the host made. -/
theorem step_busError {addr : BusOffset} (h : step s = .fault (.busError addr t)) :
    ∃ a p q, t = busErrorState a ((s.putSchedule p).putProgram q) := by
  obtain ⟨p, hhost | hengine | hreset⟩ := step_cases h
  · obtain ⟨a, q, ht⟩ := hostTurn_busError hhost
    exact ⟨a, p, q, ht⟩
  · exact absurd hengine (engineTurn_noBusError _ _ _)
  · cases hreset

end

/-! ## Byte lanes -/

theorem be32_be32Bytes (v : Word) :
    be32 (v.extractLsb' 24 8) (v.extractLsb' 16 8) (v.extractLsb' 8 8) (v.extractLsb' 0 8) = v := by
  rw [be32, BitVec.extractLsb'_append_extractLsb'_eq_extractLsb' (by decide),
    BitVec.extractLsb'_append_extractLsb'_eq_extractLsb' (by decide),
    BitVec.extractLsb'_append_extractLsb'_eq_extractLsb' (by decide)]
  exact BitVec.extractLsb'_eq_self

/-- Lane `k` of a word holds its bits 31-8k to 24-8k (20_memory.md R67). -/
theorem be32Bytes_lane (v : Word) {k : Nat} (hk : k < 4) :
    ((be32Bytes v).drop k).take 1 = [v.extractLsb' (24 - 8 * k) 8] := by
  interval_cases k <;> rfl

/-! ## The obligations -/

/-- Settles O14: the two halves by the region the offset names. -/
theorem exactlyIllegalAccessesAreBusErrors : Obligations.ExactlyIllegalAccessesAreBusErrors := fun _ _ hc =>
  ⟨busAccess_of_not_legal, busAccess_noBusError_of_legal hc⟩

/-- Settles O15: a buffer access while busy is not legal, and a register access does not look at the engine. -/
theorem bufferAccessWhileBusyIsBusError : Obligations.BufferAccessWhileBusyIsBusError := fun _ _ _ hbusy =>
  ⟨fun hin => busAccess_of_not_legal (not_legalAccess_of_inBuffer hbusy hin), fun _ haddr hsize hwr =>
    busAccess_eq_accessReg haddr ▸ accessReg_of_legal hsize hwr⟩

/-- Settles O16: a read answers from what it leaves as it was, so it answers the same again. -/
theorem readsHaveNoSideEffect : Obligations.ReadsHaveNoSideEffect := by
  refine ⟨fun s t a hw h => ?again, fun s r => ⟨_, busAccess_read32 r s, rfl, rfl⟩⟩
  obtain ⟨v, rfl⟩ := exists_respondRead_of_read hw h
  exact ⟨rfl, rfl, (busAccess_putBus hw _).trans h⟩

/-- Settles O11: while busy an access reads, or writes a register that the command does not use. -/
theorem hostCannotDisturbPendingCommand : Obligations.HostCannotDisturbPendingCommand := by
  intro a s t hbusy hsrst h
  obtain ⟨r, -, -, -, rfl⟩ | ⟨r, u, haddr, -, hw, hu, rfl⟩ | ⟨hidle, -⟩ | ⟨hidle, -⟩ := busAccess_cases h
  · exact ⟨hbusy, rfl, rfl, rfl, rfl, rfl, rfl, rfl⟩
  · have hctrl : ¬(r = .ctrl ∧ a.wdata.getLsbD 1 = true) := by
      rintro ⟨rfl, hv⟩
      exact hsrst ⟨BitVec.eq_of_toNat_eq haddr, hw, hv⟩
    obtain ⟨x, rfl⟩ | ⟨x, hrc, hfk, rfl⟩ | ⟨x, rfl⟩ := writeReg_cases_of_busy hbusy hctrl hu
    · exact ⟨hbusy, rfl, rfl, rfl, rfl, rfl, rfl, rfl⟩
    · exact ⟨hbusy, rfl, rfl, rfl, rfl, rfl, hrc, hfk⟩
    · exact ⟨hbusy, rfl, rfl, rfl, rfl, rfl, rfl, rfl⟩
  all_goals simp [hbusy] at hidle

/-- Settles O17: each lane reads back the byte that the write put there. -/
theorem wordWritesAreReadBackBigEndian : Obligations.WordWritesAreReadBackBigEndian := by
  intro s b i v hc hidle hi h4
  refine ⟨_, busAccess_wordWrite b v hc hidle hi h4, sameMemoryOutside_writeBuf s b i (be32Bytes v), rfl, ?word,
    fun k hk => ?byte⟩
  case word =>
    exact ⟨_, busAccess_wordRead hc hidle hi h4 (readBuf_writeBuf s b i (be32Bytes v) (k := 0) (n := 4) (by simp)),
      be32_be32Bytes v⟩
  case byte =>
    have hread := readBuf_writeBuf s b i (be32Bytes v) (k := k) (n := 1) (by simp only [be32Bytes_length]; omega)
    rw [be32Bytes_lane v hk] at hread
    exact ⟨_, busAccess_byteRead hc hidle (add_lt_bufSize hi h4 hk) hread, rfl⟩

/-- Settles O18: the byte reads back as the write put it there. -/
theorem byteWritesAreReadBack : Obligations.ByteWritesAreReadBack := by
  intro s b i v hc hidle hi
  refine ⟨_, busAccess_byteWrite b v hc hidle hi, sameMemoryOutside_writeBuf s b i [v.setWidth 8], rfl, ?_⟩
  have hread := readBuf_writeBuf s b i [v.setWidth 8] (k := 0) (n := 1) le_rfl
  exact ⟨_, busAccess_byteRead hc hidle hi hread, setWidth_setWidth_eq_and_lowMask (n := 8) (by decide) v⟩

/-- Settles O19: adjacent writes join, and the four bytes are the lanes of the word. -/
theorem wordWriteIsFourByteWrites : Obligations.WordWriteIsFourByteWrites := by
  intro s b i v hc hidle hi h4
  have hlt (k : Nat) (hk : k < 4) : i + k < bufSize s.cfg := add_lt_bufSize hi h4 hk
  exact ⟨_, _, _, _, busAccess_byteWrite b _ hc hidle hi,
    busAccess_byteWrite_append b _ [_] hc hidle (hlt 1 (by decide)),
    busAccess_byteWrite_append b _ [_, _] hc hidle (hlt 2 (by decide)),
    busAccess_byteWrite_append b _ [_, _, _] hc hidle (hlt 3 (by decide)), busAccess_wordWrite b v hc hidle hi h4⟩

/-- Settles O53: the state of the host's failed access, which meets the invariant as the state before it does. -/
theorem busErrorKeepsTheInvariant : Obligations.BusErrorKeepsTheInvariant := by
  intro s t addr hinv h
  obtain ⟨a, p, q, rfl⟩ := step_busError h
  exact ⟨((hinv.putSchedule p).putProgram q).busErrorState a, rfl, rfl, rfl, rfl, rfl⟩

end Sys2Proof.Machine
end

section
/-! PROOFS. 30_encoding.md R90 to R93: a command word is its three fields, the decoder accepts exactly the fields of an
encoding, and the words it refuses are the three cases of R93. -/

namespace Sys2Proof

/-! ## The fields of a word (R90) -/

theorem word_eq_fields (w : Word) : w = rsvField w ++ optField w ++ opField w := by
  rw [rsvField, optField, opField, BitVec.extractLsb'_append_extractLsb'_eq_extractLsb' (by decide),
    BitVec.extractLsb'_append_extractLsb'_eq_extractLsb' (by decide)]
  exact BitVec.extractLsb'_eq_self.symm

@[simp] theorem rsvField_encode (i : Instr) : rsvField (encode i) = 0 := by
  rw [rsvField, encode, BitVec.extractLsb'_append_eq_of_le (by decide), BitVec.extractLsb'_append_eq_of_le (by decide)]
  rfl

@[simp] theorem optField_encode (i : Instr) : optField (encode i) = optOf i := by
  rw [optField, encode, BitVec.extractLsb'_append_eq_of_le (by decide)]
  exact BitVec.extractLsb'_append_eq_right

@[simp] theorem opField_encode (i : Instr) : opField (encode i) = opCode (opOf i) :=
  BitVec.extractLsb'_append_eq_right

/-- A word is a command's word exactly when its fields are that command's. -/
theorem eq_encode_iff {w : Word} {i : Instr} :
    w = encode i ↔ rsvField w = 0 ∧ opField w = opCode (opOf i) ∧ optField w = optOf i := by
  constructor
  · rintro rfl
    exact ⟨rsvField_encode i, opField_encode i, optField_encode i⟩
  · rintro ⟨hrsv, hop, hopt⟩
    rw [word_eq_fields w, hrsv, hop, hopt]
    rfl

/-! ## Opcodes (R91) and options (R92) -/

theorem opOfCode_eq_some_iff {b : Byte} {o : Op} : opOfCode b = some o ↔ b = opCode o := by
  constructor
  · intro h
    unfold opOfCode at h
    split at h <;> cases h <;> exact BitVec.eq_of_toNat_eq ‹_›
  · rintro rfl
    cases o <;> rfl

@[simp] theorem opOf_instrOf (o : Op) (opt : Byte) : opOf (instrOf o opt) = o := by cases o <;> rfl

/-- A command is that of its opcode and its option bits. -/
@[simp] theorem instrOf_opOf_optOf (i : Instr) : instrOf (opOf i) (optOf i) = i := by
  cases i with
  | cksum b => cases b <;> rfl
  | winAdd b => cases b <;> rfl
  | winGet c => cases c <;> rfl
  | _ => rfl

theorem bitOfBuf_bufOfBit (b : Bool) : bitOfBuf (bufOfBit b) = b := by cases b <;> rfl

theorem and_not_zero (x : Byte) : x &&& ~~~0 = x := by
  rw [BitVec.ofNat_eq_ofNat, BitVec.not_zero, BitVec.and_allOnes]

/-- A byte with no bit above bit 0 is that bit. -/
theorem and_not_one_eq_zero_iff (x : Byte) : x &&& ~~~1 = 0 ↔ (if x.getLsbD 0 then 1 else 0) = x := by
  revert x
  decide

/-- No reserved option bit is set exactly when the option field is that of the command it gives. -/
theorem and_not_optMask_eq_zero_iff (o : Op) (opt : Byte) :
    opt &&& ~~~optMask o = 0 ↔ optOf (instrOf o opt) = opt := by
  have hnone : opt &&& ~~~0 = 0 ↔ 0 = opt := by rw [and_not_zero, eq_comm]
  cases o
  case cksum | winAdd =>
    rw [instrOf, optOf, bitOfBuf_bufOfBit]
    exact and_not_one_eq_zero_iff opt
  case winGet => exact and_not_one_eq_zero_iff opt
  all_goals exact hnone

/-! ## The decoder (R93) -/

theorem decode_eq_ok_iff {w : Word} {i : Instr} : decode w = .ok i ↔
    rsvField w = 0 ∧ ∃ o, opField w = opCode o ∧ optField w &&& ~~~optMask o = 0 ∧ instrOf o (optField w) = i := by
  constructor
  · intro h
    unfold decode at h
    split at h
    · cases h
    · next hrsv =>
      split at h
      · cases h
      · next o hop =>
        split at h
        · cases h
        · next hopt =>
          cases h
          exact ⟨not_not.mp hrsv, o, opOfCode_eq_some_iff.mp hop, not_not.mp hopt, rfl⟩
  · rintro ⟨hrsv, o, hop, hopt, rfl⟩
    simp only [decode, hrsv, opOfCode_eq_some_iff.mpr hop, hopt, ne_eq, not_true, if_false]

theorem decode_eq_ok_iff_fields {w : Word} {i : Instr} :
    decode w = .ok i ↔ rsvField w = 0 ∧ opField w = opCode (opOf i) ∧ optField w = optOf i := by
  rw [decode_eq_ok_iff]
  constructor
  · rintro ⟨hrsv, o, hop, hopt, rfl⟩
    rw [opOf_instrOf, (and_not_optMask_eq_zero_iff o _).mp hopt]
    exact ⟨hrsv, hop, rfl⟩
  · rintro ⟨hrsv, hop, hopt⟩
    have hi : instrOf (opOf i) (optField w) = i := by rw [hopt, instrOf_opOf_optOf]
    exact ⟨hrsv, opOf i, hop, (and_not_optMask_eq_zero_iff _ _).mpr (by rw [hi, hopt]), hi⟩

theorem decode_eq_ok_iff_eq_encode {w : Word} {i : Instr} : decode w = .ok i ↔ w = encode i :=
  decode_eq_ok_iff_fields.trans eq_encode_iff.symm

theorem decode_encode (i : Instr) : decode (encode i) = .ok i := decode_eq_ok_iff_eq_encode.mpr rfl

/-- Settles O1: the decoder accepts a word exactly when its fields are the command's, and so does the encoder. -/
theorem decodeAndEncodeAgree : Obligations.DecodeAndEncodeAgree := fun _ _ _ => decode_eq_ok_iff_eq_encode

/-- Settles O2: each word is the encoding of its command. -/
theorem specWordsDecodeToTheirCommands : Obligations.SpecWordsDecodeToTheirCommands :=
  ⟨decode_encode .nop, decode_encode (.cksum .rxf), decode_encode .encode, decode_encode .decode,
    decode_encode (.winAdd .rxf), decode_encode (.winGet false), decode_encode (.winGet true),
    decode_encode .winAdvance⟩

/-! ## The words that are no command (R93) -/

/-- The three cases of R93 by the opcodes and option bits that R91 and R92 list, apart from the decoder's tables. -/
def IsIllegal (w : Word) : Prop :=
  rsvField w ≠ 0 ∨
  opField w ∉ ([0x00, 0x01, 0x02, 0x03, 0x10, 0x11, 0x12, 0x13, 0x14, 0x15, 0x16] : List Byte) ∨
  (opField w ∈ ([0x01, 0x11, 0x13] : List Byte) ∧ optField w &&& 0xFE ≠ 0) ∨
  (opField w ∉ ([0x01, 0x11, 0x13] : List Byte) ∧ optField w ≠ 0)

theorem mem_opCodes_iff {b : Byte} :
    b ∈ ([0x00, 0x01, 0x02, 0x03, 0x10, 0x11, 0x12, 0x13, 0x14, 0x15, 0x16] : List Byte) ↔ ∃ o, b = opCode o := by
  constructor
  · intro h
    fin_cases h
    exacts [⟨.nop, rfl⟩, ⟨.cksum, rfl⟩, ⟨.encode, rfl⟩, ⟨.decode, rfl⟩, ⟨.winInit, rfl⟩, ⟨.winAdd, rfl⟩,
      ⟨.winRelease, rfl⟩, ⟨.winGet, rfl⟩, ⟨.winAck, rfl⟩, ⟨.winAdvance, rfl⟩, ⟨.winObserve, rfl⟩]
  · rintro ⟨o, rfl⟩
    cases o <;> decide

/-- OPTMASK is bit 0 for the opcodes with an option and empty for the others. -/
theorem optMask_eq (o : Op) : optMask o = if opCode o ∈ ([0x01, 0x11, 0x13] : List Byte) then 0x01 else 0x00 := by
  cases o <;> rfl

theorem reservedOption_iff (o : Op) (opt : Byte) :
    ((opCode o ∈ ([0x01, 0x11, 0x13] : List Byte) ∧ opt &&& 0xFE ≠ 0) ∨
      (opCode o ∉ ([0x01, 0x11, 0x13] : List Byte) ∧ opt ≠ 0)) ↔ opt &&& ~~~optMask o ≠ 0 := by
  rw [optMask_eq]
  by_cases hop : opCode o ∈ ([0x01, 0x11, 0x13] : List Byte)
  · simp only [hop, if_true, true_and, not_true, false_and, or_false]
    exact Iff.rfl
  · simp only [hop, if_false, true_and, not_false_eq_true, false_and, false_or]
    rw [and_not_zero]

theorem not_isIllegal_iff {w : Word} : ¬IsIllegal w ↔ ∃ i, decode w = .ok i := by
  rw [IsIllegal, not_or, not_or, not_not, not_not, mem_opCodes_iff]
  constructor
  · rintro ⟨hrsv, ⟨o, hop⟩, hopt⟩
    rw [hop, reservedOption_iff, not_not] at hopt
    exact ⟨instrOf o (optField w), decode_eq_ok_iff.mpr ⟨hrsv, o, hop, hopt, rfl⟩⟩
  · rintro ⟨i, hi⟩
    obtain ⟨hrsv, o, hop, hopt, -⟩ := decode_eq_ok_iff.mp hi
    refine ⟨hrsv, ⟨o, hop⟩, ?_⟩
    rw [hop, reservedOption_iff, not_not]
    exact hopt

end Sys2Proof
end

section
/-! PROOFS. 00_scope.md R6, R7 and 30_encoding.md R95: who moves next, what the engine's turn and each line of the host
do, and what every completion keeps. -/

namespace Sys2Proof.Machine

/-! ## Who moves next (log 4) -/

section
variable {s t u : State} {rest : List HostLine}

theorem EngineMoves.eq_putSchedule (h : EngineMoves s u) : u = s.putSchedule u.schedule := by
  obtain ⟨-, rfl⟩ | ⟨l, -, rfl⟩ := h <;> rfl

theorem EngineMoves.step_eq (h : EngineMoves s u) (hbusy : s.engine = .busy) : step s = engineTurn u := by
  obtain ⟨hs, rfl⟩ | ⟨l, hs, rfl⟩ := h
  · simp only [step, hs, defaultTurn, isBusy_eq_true.mpr hbusy, if_true]
  · simp only [step, hs, State.putSchedule]

theorem HostMoves.eq_putSchedule (h : HostMoves s u) : u = s.putSchedule u.schedule := by
  obtain ⟨-, -, rfl⟩ | ⟨l, -, rfl⟩ := h <;> rfl

theorem HostMoves.step_eq (h : HostMoves s u) : step s = hostTurn u := by
  obtain ⟨hs, hidle, rfl⟩ | ⟨l, hs, rfl⟩ := h
  · simp only [step, hs, defaultTurn, isBusy_eq_false.mpr hidle, Bool.false_eq_true, if_false]
  · simp only [step, hs, State.putSchedule]

/-! ## The engine's turn -/

theorem engineTurn_of_no_command (hbusy : s.engine = .busy) (h : ¬∃ i, decode s.latch.w = .ok i) :
    engineTurn s = .next (finish .badCmd s) := by
  cases hw : decode s.latch.w with
  | ok i => exact absurd ⟨i, hw⟩ h
  | error e =>
    simp only [engineTurn, isBusy_eq_true.mpr hbusy, hw, if_true, execIllegal]

/-! ## What every completion keeps (40_sequencer.md R103) -/

theorem CommandFrame.refl (s : State) : CommandFrame s s := ⟨rfl, rfl, rfl, rfl, rfl, rfl, rfl, rfl, rfl⟩

theorem CommandFrame.putRes (h : CommandFrame s u) (r : Results) : CommandFrame s (u.putRes r) := { h with }

theorem CommandFrame.putWin (h : CommandFrame s u) (w : Window) : CommandFrame s (u.putWin w) := { h with }

theorem CommandFrame.putSlots (h : CommandFrame s u) (l : List Slot) : CommandFrame s (u.putSlots l) := { h with }

theorem CommandFrame.putMem (h : CommandFrame s u) (m : Memory) : CommandFrame s (u.putMem m) := { h with }

theorem CommandFrame.putFlagKnown (h : CommandFrame s u) (x : Bool) :
    CommandFrame s (u.putStatus { u.status with flagKnown := x }) := { h with }

/-- Steps (2) to (4) of R103 on whatever the command did within its frame. -/
theorem CommandFrame.completed (h : CommandFrame s u) (rc : RC) : CompletedWith rc s (finish rc u) :=
  { rc := rfl, idle := rfl, done := rfl, frame := { h with } }

theorem exec_completedWith {i : Instr} (h : exec i s = .next t) : CompletedWith t.status.rc s t := by
  have hs := CommandFrame.refl s
  cases i with
  | nop => cases h; exact hs.completed _
  | cksum b =>
    obtain ⟨-, rfl⟩ | ⟨_, -, -, rfl⟩ := execCksum_cases h
    · exact hs.completed _
    · exact (hs.putRes _).completed _
  | encode =>
    obtain ⟨-, rfl⟩ | ⟨-, -, rfl⟩ | ⟨-, -, _, -, rfl⟩ := execEncode_cases h
    · exact hs.completed _
    · exact hs.completed _
    · exact ((((hs.putMem _).putMem _).putMem _).putRes _).completed _
  | decode =>
    obtain ⟨-, rfl⟩ | ⟨-, rfl⟩ | ⟨-, -, _, -, ⟨-, rfl⟩ | ⟨-, rfl⟩⟩ := execDecode_cases h
    · exact hs.completed _
    · exact hs.completed _
    · exact (hs.putRes _).completed _
    · exact ((hs.putRes _).putFlagKnown _).completed _
  | winInit =>
    obtain rfl | ⟨-, -, -, -, rfl⟩ := execWinInit_cases h
    · exact hs.completed _
    · exact ((hs.putWin _).putSlots _).completed _
  | winAdd b =>
    obtain ⟨_, -, rfl⟩ | ⟨-, -, rfl⟩ | ⟨-, -, _, -, rfl⟩ := execWinAdd_cases h
    · exact hs.completed _
    · exact hs.completed _
    · exact ((hs.putRes _).putSlots _).completed _
  | winRelease =>
    obtain ⟨_, -, rfl⟩ | ⟨-, rfl⟩ := execWinRelease_cases h
    · exact hs.completed _
    · exact ((hs.putRes _).putSlots _).completed _
  | winGet c =>
    obtain ⟨_, -, rfl⟩ | ⟨-, -, rfl⟩ | ⟨-, -, -, rfl⟩ | ⟨-, -, -, rfl⟩ := execWinGet_cases h
    · exact hs.completed _
    · exact (hs.putRes _).completed _
    · exact ((hs.putRes _).putRes _).completed _
    · exact (((hs.putRes _).putRes _).putMem _).completed _
  | winAck =>
    obtain ⟨_, -, rfl⟩ | ⟨-, rfl⟩ | ⟨-, rfl⟩ | ⟨-, -, -, rfl⟩ := execWinAck_cases h
    · exact hs.completed _
    · exact hs.completed _
    · exact hs.completed _
    · exact (hs.putWin _).completed _
  | winAdvance =>
    obtain ⟨_, -, rfl⟩ | ⟨-, rfl⟩ | ⟨-, rfl⟩ | ⟨-, -, -, rfl⟩ := execWinAdvance_cases h
    · exact hs.completed _
    · exact hs.completed _
    · exact hs.completed _
    · exact (hs.putWin _).completed _
  | winObserve =>
    obtain ⟨_, -, rfl⟩ | ⟨-, rfl⟩ := execWinObserve_cases h
    · exact hs.completed _
    · exact (hs.putWin _).completed _

/-- A turn of a busy engine that answers a next state is a completion, of a command or of an illegal word. -/
theorem engineTurn_completedWith (hbusy : s.engine = .busy) (h : engineTurn s = .next t) :
    CompletedWith t.status.rc s t := by
  obtain ⟨hidle, -⟩ | ⟨-, i, -, hi⟩ | ⟨-, -, rfl⟩ := engineTurn_cases h
  · simp [hbusy] at hidle
  · exact exec_completedWith hi
  · exact (CommandFrame.refl s).completed .badCmd

/-! ## The lines of the host (30_encoding.md R95) -/

theorem hostTurn_of_no_line (hp : s.program = []) : hostTurn s = .next s := by
  simp only [hostTurn, hp]

theorem hostTurn_of_access {a : Access} (hp : s.program = .access a :: rest) :
    hostTurn s = busAccess a (s.putProgram rest) := by
  simp only [hostTurn, hp, hostAccess_eq]

/-- A `wait` line reads STATUS, and is taken off when BUSY reads 0. -/
theorem hostTurn_of_wait (hp : s.program = .wait :: rest) :
    hostTurn s = .next (if isBusy s then respondRead (readReg .status s) s
      else (respondRead (readReg .status s) s).putProgram rest) := by
  simp only [hostTurn, hp, hostAccess_eq, busAccess_read32, respondRead_bus, readReg, statusWord_busy]

theorem hostTurn_of_expect {off : BusOffset} {v : Word} (hp : s.program = .expect off v :: rest)
    (h : busAccess (read32 off) (s.putProgram rest) = .next t) :
    hostTurn s = if t.bus.rdata = v then .next t else .fault (.expectFailed off t.bus.rdata) := by
  simp only [hostTurn, hp, hostAccess_eq, h]

theorem hostTurn_of_expect_fault {off : BusOffset} {v : Word} {f : Fault} (hp : s.program = .expect off v :: rest)
    (h : busAccess (read32 off) (s.putProgram rest) = .fault f) : hostTurn s = .fault f := by
  simp only [hostTurn, hp, hostAccess_eq, h]

end

/-! ## The obligations -/

/-- Settles O3: the words of R93's three cases are those the decoder refuses, and a refused word only completes. -/
theorem illegalWordsFinishBadCmd : Obligations.IllegalWordsFinishBadCmd := by
  intro s u hbusy hu
  refine ⟨fun hillegal => ?_, not_isIllegal_iff.mp⟩
  have hno : ¬∃ i, decode s.latch.w = .ok i := fun hi => not_isIllegal_iff.mpr hi hillegal
  rw [hu.step_eq hbusy, hu.eq_putSchedule]
  exact engineTurn_of_no_command hbusy hno

/-- Settles O10: the completion leaves the engine idle and the wait line next, and the host's STATUS read then gives
BUSY 0. -/
theorem waitEndsAfterCompletion : Obligations.WaitEndsAfterCompletion := by
  intro s u t w rest hbusy hu hp hstep hw
  rw [hu.step_eq hbusy, hu.eq_putSchedule] at hstep
  have ht := engineTurn_completedWith (s := s.putSchedule u.schedule) hbusy hstep
  have hidle : w.engine = .idle := by rw [hw.eq_putSchedule]; exact ht.idle
  have hwait : w.program = .wait :: rest := by rw [hw.eq_putSchedule]; exact ht.frame.program.trans hp
  have hbit : (readReg .status w).getLsbD 0 = false := (statusWord_busy w).trans (isBusy_eq_false.mpr hidle)
  rw [hw.step_eq, hostTurn_of_wait hwait, isBusy_eq_false.mpr hidle]
  exact ⟨_, rfl, rfl, hidle, hbit⟩

/-- Settles O56: the step is the host's turn, and the turn is what its next line says. -/
theorem stepPerformsTheHostsLine : Obligations.StepPerformsTheHostsLine := by
  intro s u hu
  rw [hu.step_eq]
  refine ⟨hostTurn_of_no_line, fun a rest => hostTurn_of_access, fun rest hp => ⟨fun hbusy => ?busy, fun hidle => ?idle⟩,
    fun off v rest hp => ⟨fun t ht => ⟨fun heq => ?agrees, fun hne => ?differs⟩, fun f => hostTurn_of_expect_fault hp⟩⟩
  case busy => rw [hostTurn_of_wait hp, isBusy_eq_true.mpr hbusy]; rfl
  case idle => rw [hostTurn_of_wait hp, isBusy_eq_false.mpr hidle]; rfl
  case agrees => rw [hostTurn_of_expect hp ht, if_pos heq]
  case differs => rw [hostTurn_of_expect hp ht, if_neg hne]

end Sys2Proof.Machine
end

section
/-! PROOFS. 40_sequencer.md: how a command word is submitted, that a pending command completes or stops at an unwritten
byte, and what a command that fails leaves. -/

namespace Sys2Proof.Machine

section
variable {s t u : State} {i : Instr}

/-! ## Submission (R100 to R102) -/

/-- A CMD write submits the word, whatever the engine does (R100). -/
theorem busAccess_cmdWrite (w : Word) (s : State) :
    busAccess (regWrite .cmd w) s = .next (respondWrite (submit w s)) := busAccess_write rfl

/-! ## The engine's turn (R103) -/

theorem engineTurn_of_command (hbusy : s.engine = .busy) (h : decode s.latch.w = .ok i) :
    engineTurn s = exec i s := by
  simp only [engineTurn, isBusy_eq_true.mpr hbusy, h, if_true]

theorem engineTurn_of_idle (hidle : s.engine = .idle) : engineTurn s = .next s := by
  simp only [engineTurn, isBusy_eq_false.mpr hidle, Bool.false_eq_true, if_false]

theorem step_of_engine_scheduled {rest : List Mover} (h : s.schedule = .engine :: rest) :
    step s = engineTurn (s.putSchedule rest) := by
  simp only [step, h]

/-! ## What a completion shows the host (R103 (2) to (5)) -/

theorem statusWord_done (s : State) : (statusWord s).getLsbD 1 = s.status.done :=
  (statusWord_bit s (by decide)).trans (by simp)

/-- Step (5) of R103: a completion raises irq exactly when it is enabled. -/
theorem CompletedWith.irq_eq {rc : RC} (h : CompletedWith rc s t) : irq t = s.ie := by
  rw [irq, h.done, h.frame.ie, Bool.and_true]

theorem CompletedWith.status_not_busy {rc : RC} (h : CompletedWith rc s t) : (readReg .status t).getLsbD 0 = false :=
  (statusWord_busy t).trans (isBusy_eq_false.mpr h.idle)

theorem CompletedWith.status_done {rc : RC} (h : CompletedWith rc s t) : (readReg .status t).getLsbD 1 = true :=
  (statusWord_done t).trans h.done

/-! ## No command is stuck (R106) -/

/-- The outcome is a next state, or the fault of a frame-buffer byte that is unwritten in `s` (00_scope.md R13). -/
def CompletesOrStops (s : State) (o : Result) : Prop :=
  (∃ t, o = .next t) ∨ ∃ b i, o = .fault (.unwrittenByte (bufAddr b i)) ∧ s.byte? b i = none

theorem completesOrStops_next (s t : State) : CompletesOrStops s (.next t) := .inl ⟨t, rfl⟩

theorem completesOrStops_of_readBuf {b : Buf} {off n e : Nat} (h : readBuf s b off n = .error e) :
    CompletesOrStops s (.fault (.unwrittenByte e)) := by
  obtain ⟨i, -, rfl, hn⟩ := readBuf_eq_error h
  exact .inr ⟨b, off + i, rfl, hn⟩

/-- Writing ENCODE's header unwrites no byte. -/
theorem byte?_eq_none_of_writeHeader {seq : Word} {c : Half} {flag : Byte} {b : Buf} {k : Nat}
    (h : (writeHeader s seq c flag).byte? b k = none) : s.byte? b k = none :=
  by_contra fun hs => Memory.read?_writeRange_ne_none (.inr (Memory.read?_writeRange_ne_none (.inr
    (Memory.read?_writeRange_ne_none (.inr hs))))) h

theorem CompletesOrStops.of_writeHeader {seq : Word} {c : Half} {flag : Byte} {o : Result}
    (h : CompletesOrStops (writeHeader s seq c flag) o) : CompletesOrStops s o :=
  h.imp_right fun ⟨b, k, ho, hn⟩ => ⟨b, k, ho, byte?_eq_none_of_writeHeader hn⟩

/-- A check that fails completes the command (R107), so a command is judged by what follows its checks. -/
theorem completesOrStops_check {c : Prop} [Decidable c] {o : Result} (h : CompletesOrStops s o) :
    CompletesOrStops s (if c then .next t else o) := by
  split
  · exact completesOrStops_next s t
  · exact h

/-- Only the buffer read of CKSUM, ENCODE, DECODE and WIN_ADD can stop a command. -/
theorem exec_completesOrStops (i : Instr) (s : State) : CompletesOrStops s (exec i s) := by
  have completes (t : State) := completesOrStops_next s t
  cases i with
  | nop => exact completes _
  | cksum b =>
    refine completesOrStops_check ?_
    split
    · next hread => exact completesOrStops_of_readBuf hread
    · exact completes _
  | encode =>
    refine completesOrStops_check (completesOrStops_check ?_)
    split
    · next hread => exact (completesOrStops_of_readBuf hread).of_writeHeader
    · exact completes _
  | decode =>
    refine completesOrStops_check (completesOrStops_check ?_)
    split
    · next hread => exact completesOrStops_of_readBuf hread
    · exact completesOrStops_check (completes _)
  | winInit => exact completesOrStops_check (completesOrStops_check (completes _))
  | winAdd b =>
    simp only [exec, execWinAdd]
    split
    · exact completes _
    · refine completesOrStops_check ?_
      split
      · next hread => exact completesOrStops_of_readBuf hread
      · exact completes _
  | winRelease =>
    simp only [exec, execWinRelease]
    split <;> exact completes _
  | winGet copy =>
    simp only [exec, execWinGet]
    split
    · exact completes _
    · exact completesOrStops_check (completes _)
  | winAck =>
    simp only [exec, execWinAck]
    split
    · exact completes _
    · exact completesOrStops_check (completesOrStops_check (completes _))
  | winAdvance =>
    simp only [exec, execWinAdvance]
    split
    · exact completes _
    · exact completesOrStops_check (completesOrStops_check (completes _))
  | winObserve =>
    simp only [exec, execWinObserve]
    split <;> exact completes _

theorem engineTurn_completesOrStops (hbusy : s.engine = .busy) : CompletesOrStops s (engineTurn s) := by
  by_cases h : ∃ i, decode s.latch.w = .ok i
  · obtain ⟨i, hi⟩ := h
    rw [engineTurn_of_command hbusy hi]
    exact exec_completesOrStops i s
  · rw [engineTurn_of_no_command hbusy h]
    exact completesOrStops_next s _

end

/-! ## The obligations -/

/-- Settles O7: the completion and its frame are what every command leaves; STATUS and irq are views of it. -/
theorem everyCompletionSetsDoneAndIdle : Obligations.EveryCompletionSetsDoneAndIdle := by
  intro i s t h
  have hc := exec_completedWith h
  exact ⟨hc, hc.irq_eq, hc.status_not_busy, hc.status_done, statusWord_rc t⟩

/-- Settles O8: along each command's outcomes, a check that fails finishes on the state as it was, but for the checksum
that DECODE reports and the slot that WIN_GET reports. -/
theorem failedCommandsChangeNothingElse : Obligations.FailedCommandsChangeNothingElse := by
  intro i s t h hrc
  cases i with
  | nop => cases h; exact absurd rfl hrc
  | cksum b =>
    obtain ⟨-, rfl⟩ | ⟨_, -, -, rfl⟩ := execCksum_cases h
    · exact .inl rfl
    · exact absurd rfl hrc
  | encode =>
    obtain ⟨-, rfl⟩ | ⟨-, -, rfl⟩ | ⟨-, -, _, -, rfl⟩ := execEncode_cases h
    · exact .inl rfl
    · exact .inl rfl
    · exact absurd rfl hrc
  | decode =>
    obtain ⟨-, rfl⟩ | ⟨-, rfl⟩ | ⟨-, -, _, -, ⟨-, rfl⟩ | ⟨-, rfl⟩⟩ := execDecode_cases h
    · exact .inl rfl
    · exact .inl rfl
    · exact .inr (.inl ⟨rfl, rfl, rfl⟩)
    · exact absurd rfl hrc
  | winInit =>
    obtain rfl | ⟨-, -, -, -, rfl⟩ := execWinInit_cases h
    · exact .inl rfl
    · exact absurd rfl hrc
  | winAdd b =>
    obtain ⟨_, -, rfl⟩ | ⟨-, -, rfl⟩ | ⟨-, -, _, -, rfl⟩ := execWinAdd_cases h
    · exact .inl rfl
    · exact .inl rfl
    · exact absurd rfl hrc
  | winRelease =>
    obtain ⟨_, -, rfl⟩ | ⟨-, rfl⟩ := execWinRelease_cases h
    · exact .inl rfl
    · exact absurd rfl hrc
  | winGet c =>
    obtain ⟨_, -, rfl⟩ | ⟨-, -, rfl⟩ | ⟨-, -, -, rfl⟩ | ⟨-, -, -, rfl⟩ := execWinGet_cases h
    · exact .inl rfl
    · exact .inr (.inr ⟨c, rfl, rfl, rfl⟩)
    · exact absurd rfl hrc
    · exact absurd rfl hrc
  | winAck =>
    obtain ⟨_, -, rfl⟩ | ⟨-, rfl⟩ | ⟨-, rfl⟩ | ⟨-, -, -, rfl⟩ := execWinAck_cases h
    · exact .inl rfl
    · exact .inl rfl
    · exact .inl rfl
    · exact absurd rfl hrc
  | winAdvance =>
    obtain ⟨_, -, rfl⟩ | ⟨-, rfl⟩ | ⟨-, rfl⟩ | ⟨-, -, -, rfl⟩ := execWinAdvance_cases h
    · exact .inl rfl
    · exact .inl rfl
    · exact .inl rfl
    · exact absurd rfl hrc
  | winObserve =>
    obtain ⟨_, -, rfl⟩ | ⟨-, rfl⟩ := execWinObserve_cases h
    · exact .inl rfl
    · exact absurd rfl hrc

/-- Settles O9: the engine's turn completes the command, or stops at the unwritten byte of its buffer read. -/
theorem pendingCommandsComplete : Obligations.PendingCommandsComplete := by
  intro s u hbusy hu
  rw [hu.step_eq hbusy, hu.eq_putSchedule]
  obtain ⟨t, ht⟩ | hstop := engineTurn_completesOrStops (s := s.putSchedule u.schedule) hbusy
  · have hc := engineTurn_completedWith (s := s.putSchedule u.schedule) hbusy ht
    exact .inl ⟨t, ht, hc.idle, hc.done, hc.frame.program⟩
  · exact .inr hstop

/-- Settles O4: the step is the engine's turn, which runs the decoded word while busy and does nothing while idle. -/
theorem stepRunsTheLatchedCommand : Obligations.StepRunsTheLatchedCommand := by
  refine ⟨fun s u i hbusy hu _ hw => ?busy, fun s rest hidle hs => ?idle⟩
  case busy =>
    rw [hu.step_eq hbusy, hu.eq_putSchedule]
    exact engineTurn_of_command hbusy hw
  case idle =>
    rw [step_of_engine_scheduled hs]
    exact engineTurn_of_idle hidle

/-- Settles O5: while idle the submission is the acceptance. -/
theorem cmdWriteWhileIdleIsAccepted : Obligations.CmdWriteWhileIdleIsAccepted := by
  intro s w hidle
  rw [busAccess_cmdWrite, submit_of_idle w hidle]
  rfl

/-- Settles O6: while busy the submission is the overrun. -/
theorem cmdWriteWhileBusyOnlySetsOverrun : Obligations.CmdWriteWhileBusyOnlySetsOverrun := by
  intro s w hbusy
  rw [busAccess_cmdWrite, submit_of_busy w hbusy]
  rfl

/-- Settles O31: NOP's meaning is its completion, and its word while busy is an overrun like any other (O6). -/
theorem nopOnlyCompletes : Obligations.NopOnlyCompletes :=
  ⟨rfl, fun s => ⟨rfl, fun hbusy => ⟨_, cmdWriteWhileBusyOnlySetsOverrun s _ hbusy, rfl⟩⟩⟩

end Sys2Proof.Machine
end

section
/-! PROOFS. 41_checksum.md R111: what CKSUM answers for a range that passes the end of the buffer, and for one that lies
in it and is written. -/

namespace Sys2Proof.Machine

/-! ## The two answers of CKSUM -/

/-- A list of bytes that a buffer holds is what a read of their range gives. -/
theorem readBuf_of_holdsBytes {s : State} {b : Buf} {off n : Nat} {bytes : List Byte} (hlen : bytes.length = n)
    (h : HoldsBytes s b off bytes) : readBuf s b off n = .ok bytes :=
  readBuf_eq_ok_iff.mpr ⟨hlen, h⟩

/-- The one check of R111: it comes before any byte is read. -/
theorem execCksum_of_past_end {s : State} (b : Buf)
    (h : bufSize s.cfg < s.latch.args.ckOff.toNat + s.latch.args.ckLen.toNat) :
    execCksum b s = .next (finish .range s) := by
  simp only [execCksum, h, if_true]

theorem execCksum_of_range {s : State} {b : Buf} {bytes : List Byte}
    (h : s.latch.args.ckOff.toNat + s.latch.args.ckLen.toNat ≤ bufSize s.cfg)
    (hread : readBuf s b s.latch.args.ckOff.toNat s.latch.args.ckLen.toNat = .ok bytes) :
    execCksum b s = .next (finish .ok (s.putRes { s.res with cksum := cksum bytes })) := by
  simp only [execCksum, Nat.not_lt.mpr h, if_false, hread]

/-! ## The obligation -/

/-- Settles O32: past the end the check answers before the buffer is read; inside, the read gives the bytes the buffer
holds, and the answer writes RES_CKSUM within the frame of a completion. -/
theorem cksumReportsTheRangeChecksum : Obligations.CksumReportsTheRangeChecksum := by
  refine ⟨rfl, rfl, fun b s => ⟨fun hpast => ?range, fun bytes hrange hlen hholds => ?ok⟩⟩
  case range => exact execCksum_of_past_end b hpast
  case ok =>
    have hcompleted := ((CommandFrame.refl s).putRes { s.res with cksum := cksum bytes }).completed .ok
    exact ⟨_, execCksum_of_range hrange (readBuf_of_holdsBytes hlen hholds), hcompleted, rfl, rfl, rfl, rfl,
      fun _ => rfl⟩

end Sys2Proof.Machine
end

section
/-! PROOFS. 42_codec.md: the frame ENCODE builds from its header and the payload in place, what DECODE reports of a frame
that verifies, and who writes FLAG_KNOWN. -/

namespace Sys2Proof.Machine

section
variable {s t : State} {b : Buf} {off : Nat} {xs ys bytes payload frame : List Byte}

/-! ## What a buffer holds -/

/-- A buffer holds two byte strings in a row when it holds each in its place. -/
theorem HoldsBytes.append (hxs : HoldsBytes s b off xs) (hys : HoldsBytes s b (off + xs.length) ys) :
    HoldsBytes s b off (xs ++ ys) := by
  intro i hi
  rw [List.length_append] at hi
  rcases Nat.lt_or_ge i xs.length with hlt | hge
  · rw [List.getElem_append_left hlt]
    exact hxs i hlt
  · have hy := hys (i - xs.length) (by omega)
    rw [Nat.add_assoc, Nat.add_sub_cancel' hge] at hy
    rw [List.getElem_append_right hge]
    exact hy

theorem holdsBytes_writeBuf (s : State) (b : Buf) (off : Nat) (bytes : List Byte) :
    HoldsBytes (writeBuf s b off bytes) b off bytes := by
  intro i hi
  rw [State.byte?, show bufAddr b (off + i) = bufAddr b off + i from (Nat.add_assoc _ _ _).symm]
  exact Memory.read?_writeRange_of_inside _ _ _ i hi

/-! ## ENCODE (R120) -/

/-- The header of R80: sequence number, checksum field, flag. -/
def headerBytes (seq : Word) (c : Half) (flag : Byte) : List Byte := be32Bytes seq ++ be16Bytes c ++ [flag]

@[simp] theorem headerBytes_length (seq : Word) (c : Half) (flag : Byte) :
    (headerBytes seq c flag).length = hdrLen := rfl

/-- The header the checksum is computed over has a zeroed checksum field. -/
theorem headerBytes_zero (seq : Word) (flag : Byte) : headerBytes seq 0 flag = be32Bytes seq ++ [0, 0] ++ [flag] := rfl

/-- The three writes of the header are one write of its seven bytes. -/
theorem writeHeader_eq_writeBuf (s : State) (seq : Word) (c : Half) (flag : Byte) :
    writeHeader s seq c flag = writeBuf s .txf 0 (headerBytes seq c flag) := rfl

/-- Once its header is written, TXF holds the frame: the header leaves the payload in place. -/
theorem holdsBytes_writeHeader (seq : Word) (c : Half) (flag : Byte) (h : HoldsBytes s .txf hdrLen payload) :
    HoldsBytes (writeHeader s seq c flag) .txf 0 (headerBytes seq c flag ++ payload) := by
  refine HoldsBytes.append (holdsBytes_writeBuf s .txf 0 (headerBytes seq c flag)) fun i hi => ?_
  rw [headerBytes_length, Nat.zero_add, ← h i hi]
  exact read?_writeHeader_of_outside _ _ _ _ (by simp only [bufAddr]; omega)

/-- The header changes memory alone, and there only its seven bytes; with the payload in place they are the frame. -/
theorem exists_writeHeader_eq_putMem (seq : Word) (c : Half) (flag : Byte) (h : HoldsBytes s .txf hdrLen payload) :
    ∃ m, writeHeader s seq c flag = s.putMem m ∧ HoldsBytes (s.putMem m) .txf 0 (headerBytes seq c flag ++ payload) ∧
      SameMemoryOutside (bufAddr .txf 0) hdrLen s (s.putMem m) :=
  ⟨_, rfl, holdsBytes_writeHeader seq c flag h, fun _ => read?_writeHeader_of_outside s seq c flag⟩

theorem execEncode_of_long (h : s.cfg.payloadMax < s.latch.args.len.toNat) : execEncode s = .next (finish .len s) := by
  simp only [execEncode, h, if_true]

theorem execEncode_of_not_flag (hlen : s.latch.args.len.toNat ≤ s.cfg.payloadMax)
    (hflag : ¬IsFlagByte s.cfg s.latch.args.flag) : execEncode s = .next (finish .flag s) := by
  rw [← isFlagCode_iff_isFlagByte, Bool.not_eq_true] at hflag
  simp only [execEncode, Nat.not_lt.mpr hlen, if_false, hflag, Bool.not_false, if_true]

theorem execEncode_of_frame (hlen : s.latch.args.len.toNat ≤ s.cfg.payloadMax)
    (hflag : IsFlagByte s.cfg s.latch.args.flag)
    (hread : readBuf (writeHeader s s.latch.args.seq 0 s.latch.args.flag) .txf 0 (hdrLen + s.latch.args.len.toNat) =
      .ok frame) :
    execEncode s = .next (finish .ok ((writeHeader s s.latch.args.seq (cksum frame) s.latch.args.flag).putRes
      { s.res with cksum := cksum frame, txLen := BitVec.ofNat 11 (hdrLen + s.latch.args.len.toNat) })) := by
  rw [← isFlagCode_iff_isFlagByte] at hflag
  simp only [execEncode, Nat.not_lt.mpr hlen, if_false, hflag, Bool.not_true, Bool.false_eq_true, hread]

/-- Every frame length up to FRAME_MAX fits the 11-bit length fields (log 2). -/
theorem toNat_ofNat_of_le_frameMax {c : Config} {n : Nat} (hc : c.wf = true) (h : n ≤ frameMax c) :
    (BitVec.ofNat 11 n).toNat = n := by
  have hmax := Config.payloadMax_le hc
  simp only [frameMax, hdrLen] at h
  rw [BitVec.toNat_ofNat, Nat.mod_eq_of_lt (by omega)]

/-! ## DECODE (R121) -/

theorem execDecode_of_short (h : s.latch.args.rxLen.toNat < hdrLen) : execDecode s = .next (finish .short s) := by
  simp only [execDecode, h, if_true]

theorem execDecode_of_long (h : frameMax s.cfg < s.latch.args.rxLen.toNat) :
    execDecode s = .next (finish .len s) := by
  have hlo : ¬s.latch.args.rxLen.toNat < hdrLen := by simp only [frameMax] at h; omega
  simp only [execDecode, hlo, if_false, h, if_true]

/-- What follows the length checks of R121, on the bytes received. -/
theorem execDecode_of_frame (hlo : hdrLen ≤ s.latch.args.rxLen.toNat) (hhi : s.latch.args.rxLen.toNat ≤ frameMax s.cfg)
    (hread : readBuf s .rxf 0 s.latch.args.rxLen.toNat = .ok frame) :
    execDecode s =
      if cksum frame ≠ 0 then .next (finish .cksumFail (s.putRes { s.res with cksum := cksum frame }))
      else .next (finish .ok ((s.putRes (decodedFields frame s.res)).putStatus
        { s.status with flagKnown := isFlagCode s.cfg.flags (frame.getD 6 0) })) := by
  simp only [execDecode, Nat.not_lt.mpr hlo, Nat.not_lt.mpr hhi, if_false, hread]

theorem be32Bytes_be32 (b0 b1 b2 b3 : Byte) : be32Bytes (be32 b0 b1 b2 b3) = [b0, b1, b2, b3] := by
  have lane0 : (be32 b0 b1 b2 b3).extractLsb' 24 8 = b0 := by
    rw [be32, BitVec.extractLsb'_append_eq_of_le (by decide), BitVec.extractLsb'_append_eq_of_le (by decide),
      BitVec.extractLsb'_append_eq_of_le (by decide), BitVec.extractLsb'_eq_self]
  have lane1 : (be32 b0 b1 b2 b3).extractLsb' 16 8 = b1 := by
    rw [be32, BitVec.extractLsb'_append_eq_of_le (by decide), BitVec.extractLsb'_append_eq_of_le (by decide)]
    exact BitVec.extractLsb'_append_eq_right
  have lane2 : (be32 b0 b1 b2 b3).extractLsb' 8 8 = b2 := by
    rw [be32, BitVec.extractLsb'_append_eq_of_le (by decide)]
    exact BitVec.extractLsb'_append_eq_right
  have lane3 : (be32 b0 b1 b2 b3).extractLsb' 0 8 = b3 := BitVec.extractLsb'_append_eq_right
  rw [be32Bytes, lane0, lane1, lane2, lane3]

/-- RES_SEQ is the frame's first four bytes, big-endian (R80). -/
theorem be32Bytes_decodedFields_seq (r : Results) (h : 4 ≤ frame.length) :
    be32Bytes (decodedFields frame r).seq = frame.take 4 := by
  match frame, h with
  | b0 :: b1 :: b2 :: b3 :: rest, _ => exact be32Bytes_be32 b0 b1 b2 b3

/-- RES_FLAG is the frame's byte 6 (R80). -/
theorem getElem?_six_eq_decodedFields_flag (r : Results) (h : hdrLen ≤ frame.length) :
    frame[6]? = some (decodedFields frame r).flag := by
  have hlt : 6 < frame.length := h
  simp [decodedFields, hlt]

/-! ## FLAG_KNOWN (R122) -/

theorem exec_flagKnown_of_ne_decode {i : Instr} (h : exec i s = .next t) (hi : i ≠ .decode) :
    t.status.flagKnown = s.status.flagKnown := by
  cases i with
  | nop => cases h; rfl
  | cksum b => obtain ⟨-, rfl⟩ | ⟨_, -, -, rfl⟩ := execCksum_cases h <;> rfl
  | encode => obtain ⟨-, rfl⟩ | ⟨-, -, rfl⟩ | ⟨-, -, _, -, rfl⟩ := execEncode_cases h <;> rfl
  | decode => exact absurd rfl hi
  | winInit => obtain rfl | ⟨-, -, -, -, rfl⟩ := execWinInit_cases h <;> rfl
  | winAdd b => obtain ⟨_, -, rfl⟩ | ⟨-, -, rfl⟩ | ⟨-, -, _, -, rfl⟩ := execWinAdd_cases h <;> rfl
  | winRelease => obtain ⟨_, -, rfl⟩ | ⟨-, rfl⟩ := execWinRelease_cases h <;> rfl
  | winGet c =>
    obtain ⟨_, -, rfl⟩ | ⟨-, -, rfl⟩ | ⟨-, -, -, rfl⟩ | ⟨-, -, -, rfl⟩ := execWinGet_cases h <;> rfl
  | winAck => obtain ⟨_, -, rfl⟩ | ⟨-, rfl⟩ | ⟨-, rfl⟩ | ⟨-, -, -, rfl⟩ := execWinAck_cases h <;> rfl
  | winAdvance => obtain ⟨_, -, rfl⟩ | ⟨-, rfl⟩ | ⟨-, rfl⟩ | ⟨-, -, -, rfl⟩ := execWinAdvance_cases h <;> rfl
  | winObserve => obtain ⟨_, -, rfl⟩ | ⟨-, rfl⟩ := execWinObserve_cases h <;> rfl

/-- A DECODE that fails leaves FLAG_KNOWN, and one that accepts the frame judges the flag it reports. -/
theorem execDecode_flagKnown (h : execDecode s = .next t) :
    (t.status.rc ≠ .ok ∧ t.status.flagKnown = s.status.flagKnown) ∨
    (t.status.rc = .ok ∧ t.status.flagKnown = isFlagCode t.cfg.flags t.res.flag) := by
  obtain ⟨-, rfl⟩ | ⟨-, rfl⟩ | ⟨-, -, _, -, ⟨-, rfl⟩ | ⟨-, rfl⟩⟩ := execDecode_cases h
  · exact .inl ⟨nofun, rfl⟩
  · exact .inl ⟨nofun, rfl⟩
  · exact .inl ⟨nofun, rfl⟩
  · exact .inr ⟨rfl, rfl⟩

end

/-! ## The obligations -/

/-- Settles O33: the checks answer before any byte is touched; past them the frame over the zeroed checksum field is
what TXF holds when it is read, and the header with the checksum changes only its seven bytes. -/
theorem encodeBuildsTheFrame : Obligations.EncodeBuildsTheFrame := by
  refine ⟨by decide, fun s hc => ⟨execEncode_of_long, execEncode_of_not_flag,
    fun payload hlen hflag hpayload hholds => ?_⟩⟩
  intro c
  have hread := readBuf_of_holdsBytes (n := hdrLen + s.latch.args.len.toNat)
    (by rw [List.length_append, headerBytes_length, hpayload])
    (holdsBytes_writeHeader s.latch.args.seq 0 s.latch.args.flag hholds)
  rw [headerBytes_zero] at hread
  obtain ⟨m, hbuilt, hbytes, houtside⟩ := exists_writeHeader_eq_putMem s.latch.args.seq c s.latch.args.flag hholds
  have hexec : execEncode s = .next (finish .ok ((writeHeader s s.latch.args.seq c s.latch.args.flag).putRes
      { s.res with cksum := c, txLen := BitVec.ofNat 11 (hdrLen + s.latch.args.len.toNat) })) :=
    execEncode_of_frame hlen hflag hread
  rw [hbuilt] at hexec
  -- The frame of the completion holds for any checksum, so its computation is hidden from unification.
  clear_value c
  have htxLen := toNat_ofNat_of_le_frameMax hc (Nat.add_le_add_left hlen hdrLen)
  exact ⟨_, hexec, (((CommandFrame.refl s).putMem m).putRes _).completed .ok, rfl, hbytes, houtside, rfl, htxLen, rfl,
    rfl⟩

/-- Settles O34: the length checks answer before the buffer is read; the frame the buffer holds is then judged by its
checksum, and its fields are reported within the frame of a completion. -/
theorem decodeAcceptsFramesThatVerify : Obligations.DecodeAcceptsFramesThatVerify := by
  refine ⟨by decide, fun s hc => ⟨execDecode_of_short, execDecode_of_long, fun frame hlo hhi hlen hholds => ?_⟩⟩
  have hexec := execDecode_of_frame hlo hhi (readBuf_of_holdsBytes hlen hholds)
  have hhdr : hdrLen ≤ frame.length := hlen ▸ hlo
  refine ⟨fun hbad => ?cksumFail, fun hgood => ?ok⟩
  case cksumFail => exact hexec.trans (if_pos hbad)
  case ok =>
    have hframe := ((CommandFrame.refl s).putRes (decodedFields frame s.res)).putFlagKnown
      (isFlagCode s.cfg.flags (frame.getD 6 0))
    have hresLen : (decodedFields frame s.res).len.toNat = s.latch.args.rxLen.toNat - hdrLen :=
      hlen ▸ toNat_ofNat_of_le_frameMax hc ((Nat.sub_le _ _).trans (hlen.trans_le hhi))
    exact ⟨_, hexec.trans (if_neg (not_not.mpr hgood)), hframe.completed .ok, isFlagCode_iff_isFlagByte,
      be32Bytes_decodedFields_seq s.res (le_trans (by decide) hhdr),
      getElem?_six_eq_decodedFields_flag s.res hhdr, hresLen, hgood, rfl, rfl, rfl, rfl, rfl, fun _ => rfl⟩

/-- Settles O35: DECODE writes FLAG_KNOWN with the verdict on the flag it reports, and only when it accepts. -/
theorem flagKnownIsWrittenOnlyByDecode : Obligations.FlagKnownIsWrittenOnlyByDecode := by
  refine ⟨fun i s t h => ⟨?accepted, fun hother => ?other⟩, fun _ => rfl⟩
  case accepted =>
    rintro rfl hok
    obtain ⟨hrc, -⟩ | ⟨-, hknown⟩ := execDecode_flagKnown h
    · exact absurd hok hrc
    · rw [hknown, isFlagCode_iff_isFlagByte]
  case other =>
    by_cases hi : i = .decode
    · subst hi
      obtain ⟨-, hkept⟩ | ⟨hok, -⟩ := execDecode_flagKnown h
      · exact hkept
      · exact absurd hok (hother.resolve_left (not_not.mpr rfl))
    · exact exec_flagKnown_of_ne_decode h hi

end Sys2Proof.Machine
end

section
/-! PROOFS. 43_window.md: the order of the checks of R130, what RES_SLOT and RES_SLOT_SEQ report, and the answer of each
window command, one lemma per branch of its meaning. -/

namespace Sys2Proof.Machine

section
variable {s t : State} {i : Instr} {b : Buf} {c : Bool} {bytes : List Byte}

/-! ## The preconditions (R130) -/

theorem windowCheck_of_no_window (usesSeq : Bool) (h : s.win.valid = false) :
    windowCheck usesSeq s = some .noInit := by
  simp [windowCheck, h]

theorem windowCheck_of_past_seqMax (hv : s.win.valid = true) (hn : seqMax < s.latch.args.seq.toNat) :
    windowCheck true s = some .seqRange := by
  simp [windowCheck, hv, hn]

theorem windowCheck_of_le_seqMax (hv : s.win.valid = true) (hn : s.latch.args.seq.toNat ≤ seqMax) :
    windowCheck true s = none := by
  simp [windowCheck, hv, Nat.not_lt.mpr hn]

/-- WIN_ADVANCE reads no ARG_SEQ, so VALID is all its check asks for. -/
theorem windowCheck_false_of_valid (hv : s.win.valid = true) : windowCheck false s = none := by
  simp [windowCheck, hv]

/-- A command that passes on what the window check refuses with refuses as R130 says. -/
theorem preconditionsRefuse_of_windowCheck
    (h : ∀ rc, windowCheck true s = some rc → exec i s = .next (finish rc s)) : PreconditionsRefuse i s :=
  ⟨fun hv => h _ (windowCheck_of_no_window true hv), fun hv hn => h _ (windowCheck_of_past_seqMax hv hn)⟩

theorem preconditionsRefuse_winAdd (b : Buf) (s : State) : PreconditionsRefuse (.winAdd b) s :=
  preconditionsRefuse_of_windowCheck fun _ h => by simp only [exec, execWinAdd, h]

theorem preconditionsRefuse_winRelease (s : State) : PreconditionsRefuse .winRelease s :=
  preconditionsRefuse_of_windowCheck fun _ h => by simp only [exec, execWinRelease, h]

theorem preconditionsRefuse_winGet (c : Bool) (s : State) : PreconditionsRefuse (.winGet c) s :=
  preconditionsRefuse_of_windowCheck fun _ h => by simp only [exec, execWinGet, h]

theorem preconditionsRefuse_winAck (s : State) : PreconditionsRefuse .winAck s :=
  preconditionsRefuse_of_windowCheck fun _ h => by simp only [exec, execWinAck, h]

theorem preconditionsRefuse_winObserve (s : State) : PreconditionsRefuse .winObserve s :=
  preconditionsRefuse_of_windowCheck fun _ h => by simp only [exec, execWinObserve, h]

theorem execWinAdvance_of_no_window (hv : s.win.valid = false) :
    execWinAdvance s = .next (finish .noInit s) := by
  simp only [execWinAdvance, windowCheck_of_no_window false hv]

/-! ## The slot report (10_state.md R40, R41) -/

theorem slotMatches_iff {x : Slot} {n : Word} : slotMatches x n = true ↔ x.occ = true ∧ x.seq = n := by
  simp [slotMatches]

theorem slotReport_idx (isMatch occ : Bool) (k : Nat) :
    ((slotReport isMatch occ k).extractLsb' 0 16).toNat = k % 65536 := by
  have hidx : (slotReport isMatch occ k).extractLsb' 0 16 = BitVec.ofNat 16 k := BitVec.extractLsb'_append_eq_right
  rw [hidx, BitVec.toNat_ofNat]

theorem slotReport_occ (isMatch occ : Bool) (k : Nat) : (slotReport isMatch occ k).getLsbD 16 = occ :=
  BitVec.getLsbD_append.trans (by cases isMatch <;> cases occ <;> rfl)

theorem slotReport_match (isMatch occ : Bool) (k : Nat) : (slotReport isMatch occ k).getLsbD 17 = isMatch :=
  BitVec.getLsbD_append.trans (by cases isMatch <;> cases occ <;> rfl)

/-- The result registers that `reportSlot` leaves, with any RES_LEN, are a report of the slot. -/
theorem slotReported_of_res {k : Nat} {n : Word} {len : Len} (h : t.res = { (reportSlot s k n).res with len := len }) :
    SlotReported s t k n := by
  have hslot : t.res.slot = slotReport (slotMatches (slotAt s k) n) (slotAt s k).occ k := by rw [h]; rfl
  exact
    { idx := by rw [hslot, slotReport_idx]
      occ := by rw [hslot, slotReport_occ]
      isMatch := by rw [hslot, slotReport_match, slotMatches_iff]
      slotSeq := by rw [h]; rfl
      seq := by rw [h]; rfl
      flag := by rw [h]; rfl
      cksum := by rw [h]; rfl
      txLen := by rw [h]; rfl }

/-! ## WIN_INIT (R131) -/

theorem execWinInit_of_bad_sizes
    (h : s.latch.args.cap.toNat = 0 ∨ s.cfg.capMax < s.latch.args.cap.toNat ∨ s.latch.args.chunk.toNat = 0 ∨
      s.cfg.payloadMax < s.latch.args.chunk.toNat) : execWinInit s = .next (finish .cfg s) := by
  simp only [execWinInit, chunkMax, BitVec.toNat_eq, BitVec.ofNat_eq_ofNat, BitVec.toNat_ofNat, Nat.zero_mod]
  split
  · rfl
  · rw [if_pos (by omega)]

theorem execWinInit_of_sizes (hcap : 1 ≤ s.latch.args.cap.toNat) (hcapMax : s.latch.args.cap.toNat ≤ s.cfg.capMax)
    (hchunk : 1 ≤ s.latch.args.chunk.toNat) (hchunkMax : s.latch.args.chunk.toNat ≤ s.cfg.payloadMax) :
    execWinInit s = .next (finish .ok ((s.putWin (freshWindow s.latch.args.cap s.latch.args.chunk)).putSlots
      (clearSlots s.latch.args.cap.toNat s.slots))) := by
  simp only [execWinInit, chunkMax, BitVec.toNat_eq, BitVec.ofNat_eq_ofNat, BitVec.toNat_ofNat, Nat.zero_mod]
  rw [if_neg (by omega), if_neg (by omega)]

/-- Every capacity up to CAP_MAX fits the 17 bits of WIN_CAP. -/
theorem freshWindow_cap_toNat {cfg : Config} {cap : Word} (chunk : Len) (hc : cfg.wf = true)
    (h : cap.toNat ≤ cfg.capMax) : (freshWindow cap chunk).cap.toNat = cap.toNat := by
  have hmax := Config.capMax_le hc
  rw [freshWindow, BitVec.toNat_setWidth, Nat.mod_eq_of_lt (by omega)]

theorem slotAt_of_clearSlots {n : Nat} (h : t.slots = clearSlots n s.slots) (k : Nat) :
    slotAt t k = if k < n ∧ k < s.slots.length then clearSlot (slotAt s k) else slotAt s k := by
  rw [slotAt, h, clearSlots_getD, slotAt]

/-! ## WIN_ADD (R132) -/

theorem execWinAdd_of_long (hv : s.win.valid = true) (hn : s.latch.args.seq.toNat ≤ seqMax)
    (hlen : s.win.chunk.toNat < s.latch.args.len.toNat) : execWinAdd b s = .next (finish .len s) := by
  simp only [execWinAdd, windowCheck_of_le_seqMax hv hn, hlen, if_true]

theorem execWinAdd_of_bytes (hv : s.win.valid = true) (hn : s.latch.args.seq.toNat ≤ seqMax)
    (hlen : s.latch.args.len.toNat ≤ s.win.chunk.toNat)
    (hread : readBuf s b hdrLen s.latch.args.len.toNat = .ok bytes) :
    execWinAdd b s = .next (finish .ok
      (setSlot (reportSlot s (slotIndex s.win s.latch.args.seq) s.latch.args.seq) (slotIndex s.win s.latch.args.seq)
        (filledSlot (slotAt s (slotIndex s.win s.latch.args.seq)) s.latch.args.seq s.latch.args.len bytes))) := by
  simp only [execWinAdd, windowCheck_of_le_seqMax hv hn, Nat.not_lt.mpr hlen, if_false, hread]

theorem read?_filledSlot_of_lt (x : Slot) (n : Word) (len : Len) {k : Nat} (h : k < bytes.length) :
    Memory.read? (filledSlot x n len bytes).data k = some bytes[k] := by
  simpa [filledSlot] using Memory.read?_writeRange_of_inside x.data 0 bytes k h

theorem read?_filledSlot_of_le (x : Slot) (n : Word) (len : Len) {k : Nat} (h : bytes.length ≤ k) :
    Memory.read? (filledSlot x n len bytes).data k = Memory.read? x.data k :=
  Memory.read?_writeRange_of_outside x.data 0 bytes (by omega)

/-! ## WIN_RELEASE (R133) -/

theorem execWinRelease_of_window (hv : s.win.valid = true) (hn : s.latch.args.seq.toNat ≤ seqMax) :
    execWinRelease s = .next (finish .ok
      (setSlot (reportSlot s (slotIndex s.win s.latch.args.seq) s.latch.args.seq) (slotIndex s.win s.latch.args.seq)
        (clearSlot (slotAt s (slotIndex s.win s.latch.args.seq))))) := by
  simp only [execWinRelease, windowCheck_of_le_seqMax hv hn]

/-! ## WIN_GET (R134) -/

theorem execWinGet_of_noMatch (hv : s.win.valid = true) (hn : s.latch.args.seq.toNat ≤ seqMax)
    (hm : slotMatches (winGetSlot s) s.latch.args.seq = false) :
    execWinGet c s = .next (finish .noMatch (winGetReport s)) := by
  simp only [execWinGet, windowCheck_of_le_seqMax hv hn, hm, Bool.not_false, if_true]

/-- What WIN_GET does when the slot holds `seq`: the length is reported, and COPY writes the slot's data to TXF. -/
theorem execWinGet_of_match (hv : s.win.valid = true) (hn : s.latch.args.seq.toNat ≤ seqMax)
    (hm : slotMatches (winGetSlot s) s.latch.args.seq = true)
    (hdata : slotData (slotIndex s.win s.latch.args.seq) (winGetSlot s) = bytes) :
    execWinGet c s = .next (finish .ok
      (if c then writeBuf ((winGetReport s).putRes { (winGetReport s).res with len := (winGetSlot s).dlen })
        .txf hdrLen bytes
      else (winGetReport s).putRes { (winGetReport s).res with len := (winGetSlot s).dlen })) := by
  simp only [execWinGet, windowCheck_of_le_seqMax hv hn, hm, Bool.not_true, Bool.false_eq_true, if_false, hdata]

/-! ## WIN_ACK (R136) -/

theorem execWinAck_of_stale (hv : s.win.valid = true) (hn : s.latch.args.seq.toNat ≤ seqMax)
    (hlow : s.latch.args.seq.toNat < s.win.lowest.toNat) : execWinAck s = .next (finish .stale s) := by
  simp only [execWinAck, windowCheck_of_le_seqMax hv hn, hlow, if_true]

theorem execWinAck_of_ahead (hv : s.win.valid = true) (hn : s.latch.args.seq.toNat ≤ seqMax)
    (hlow : s.win.lowest.toNat ≤ s.latch.args.seq.toNat) (hcur : s.win.current.toNat < s.latch.args.seq.toNat) :
    execWinAck s = .next (finish .ahead s) := by
  simp only [execWinAck, windowCheck_of_le_seqMax hv hn, Nat.not_lt.mpr hlow, if_false, hcur, if_true]

theorem execWinAck_of_in_flight (hv : s.win.valid = true) (hn : s.latch.args.seq.toNat ≤ seqMax)
    (hlow : s.win.lowest.toNat ≤ s.latch.args.seq.toNat) (hcur : s.latch.args.seq.toNat ≤ s.win.current.toNat) :
    execWinAck s = .next (finish .ok
      (s.putWin { s.win with lowest := s.latch.args.seq
                             edge := s.latch.args.seq + s.win.cap.setWidth 32 })) := by
  simp only [execWinAck, windowCheck_of_le_seqMax hv hn, Nat.not_lt.mpr hlow, Nat.not_lt.mpr hcur, if_false]

/-- A sequence number and a capacity are too small for their sum to wrap. -/
theorem toNat_add_cap {n : Word} {cap : BitVec 17} (hn : n.toNat ≤ seqMax) :
    (n + cap.setWidth 32).toNat = n.toNat + cap.toNat := by
  simp only [seqMax] at hn
  rw [BitVec.toNat_add, BitVec.toNat_setWidth_of_le (by decide), Nat.mod_eq_of_lt (by omega)]

/-! ## WIN_ADVANCE (R137) -/

theorem execWinAdvance_of_seqMax (hv : s.win.valid = true) (hmax : seqMax ≤ s.win.current.toNat) :
    execWinAdvance s = .next (finish .seqRange s) := by
  simp only [execWinAdvance, windowCheck_false_of_valid hv, hmax, if_true]

theorem execWinAdvance_of_full (hv : s.win.valid = true) (hmax : s.win.current.toNat < seqMax)
    (hedge : s.win.edge.toNat ≤ s.win.current.toNat) : execWinAdvance s = .next (finish .full s) := by
  simp only [execWinAdvance, windowCheck_false_of_valid hv, Nat.not_le.mpr hmax, if_false, hedge, if_true]

theorem execWinAdvance_of_room (hv : s.win.valid = true) (hmax : s.win.current.toNat < seqMax)
    (hedge : s.win.current.toNat < s.win.edge.toNat) :
    execWinAdvance s = .next (finish .ok (s.putWin { s.win with current := s.win.current + 1 })) := by
  simp only [execWinAdvance, windowCheck_false_of_valid hv, Nat.not_le.mpr hmax, Nat.not_le.mpr hedge, if_false]

theorem toNat_add_one_of_lt_seqMax {n : Word} (h : n.toNat < seqMax) : (n + 1).toNat = n.toNat + 1 := by
  simp only [seqMax] at h
  bv_omega

/-! ## WIN_OBSERVE (R138) -/

theorem execWinObserve_of_window (hv : s.win.valid = true) (hn : s.latch.args.seq.toNat ≤ seqMax) :
    execWinObserve s = .next (finish .ok (s.putWin { s.win with
      hwm := if s.win.hwm.toNat < s.latch.args.seq.toNat then s.latch.args.seq else s.win.hwm })) := by
  simp only [execWinObserve, windowCheck_of_le_seqMax hv hn]

theorem toNat_ite_lt_eq_max (m n : Word) : (if m.toNat < n.toNat then n else m).toNat = max m.toNat n.toNat := by
  split <;> omega

end

/-! ## The obligations -/

/-- Settles O37: the two size checks are exactly the CFG clause; past them the fresh window and the cleared slots are
all that the completion changes. -/
theorem winInitMakesAnEmptyWindow : Obligations.WinInitMakesAnEmptyWindow := by
  refine ⟨rfl, fun s hc => ⟨execWinInit_of_bad_sizes, fun hcap hcapMax hchunk hchunkMax => ?_⟩⟩
  have hcompleted := (((CommandFrame.refl s).putWin (freshWindow s.latch.args.cap s.latch.args.chunk)).putSlots
    (clearSlots s.latch.args.cap.toNat s.slots)).completed .ok
  refine ⟨_, execWinInit_of_sizes hcap hcapMax hchunk hchunkMax, hcompleted, rfl,
    freshWindow_cap_toNat _ hc hcapMax, rfl, rfl, rfl, rfl, rfl, rfl, clearSlots_length _ _,
    fun k hk hlen => ?below, fun k hk => ?above, rfl, fun _ => rfl⟩
  case below => exact (slotAt_of_clearSlots rfl k).trans (if_pos ⟨hk, hlen⟩)
  case above => exact (slotAt_of_clearSlots rfl k).trans (if_neg fun h => Nat.not_lt.mpr hk h.1)

/-- Settles O38: past the checks the source's bytes are read, the slot is reported as it was, and then filled. -/
theorem winAddStoresInTheSlotOfItsSequence : Obligations.WinAddStoresInTheSlotOfItsSequence := by
  refine ⟨rfl, rfl, fun b s => ⟨preconditionsRefuse_winAdd b s, fun hv hn =>
    ⟨execWinAdd_of_long hv hn, fun bytes hlen hbytes hholds => ?_⟩⟩⟩
  have hexec := execWinAdd_of_bytes hv hn hlen (readBuf_of_holdsBytes hbytes hholds)
  exact ⟨_, _, hexec, (((CommandFrame.refl s).putRes _).putSlots _).completed .ok, rfl, slotReported_of_res rfl, rfl,
    rfl, rfl, rfl, rfl, fun _ => read?_filledSlot_of_lt _ _ _, fun _ => read?_filledSlot_of_le _ _ _, rfl,
    fun _ => rfl⟩

/-- Settles O40: the report comes first in both cases; the written bytes of a slot that holds `seq` are its data, and
COPY's write of them behind TXF's header is the only change to memory. -/
theorem winGetReportsAndCopiesTheSlot : Obligations.WinGetReportsAndCopiesTheSlot := by
  refine ⟨rfl, rfl, fun c s => ⟨preconditionsRefuse_winGet c s, fun hv hn =>
    ⟨fun hno => ?noMatch, fun bytes hocc hseq hlen hdata => ?holds⟩⟩⟩
  case noMatch =>
    have hm := Bool.eq_false_of_not_eq_true (mt slotMatches_iff.mp hno)
    exact ⟨_, execWinGet_of_noMatch hv hn hm, ((CommandFrame.refl s).putRes _).completed .noMatch, rfl,
      slotReported_of_res rfl, rfl, rfl, rfl, fun _ => rfl⟩
  case holds =>
    have hexec := execWinGet_of_match (c := c) hv hn (slotMatches_iff.mpr ⟨hocc, hseq⟩) (slotData_of_written hlen hdata)
    have hframe := ((CommandFrame.refl s).putRes (winGetReport s).res).putRes
      { (winGetReport s).res with len := (winGetSlot s).dlen }
    cases c with
    | false =>
      exact ⟨_, hexec, hframe.completed .ok, rfl, slotReported_of_res rfl, rfl, rfl, rfl, fun _ _ => rfl, nofun⟩
    | true =>
      exact ⟨_, hexec, (hframe.putMem _).completed .ok, rfl, slotReported_of_res rfl, rfl, rfl, rfl, nofun,
        fun _ => ⟨holdsBytes_writeBuf _ .txf hdrLen bytes, fun _ => Memory.read?_writeRange_of_outside _ _ _⟩⟩

/-- Settles O36: every window command but WIN_INIT starts with the one window check. -/
theorem windowPreconditionsComeFirst : Obligations.WindowPreconditionsComeFirst := fun s =>
  ⟨fun b => preconditionsRefuse_winAdd b s, preconditionsRefuse_winRelease s, fun c => preconditionsRefuse_winGet c s,
    preconditionsRefuse_winAck s, preconditionsRefuse_winObserve s, execWinAdvance_of_no_window⟩

/-- Settles O39: the slot is reported as it was and then cleared, without a test of its occupant. -/
theorem winReleaseEmptiesTheSlot : Obligations.WinReleaseEmptiesTheSlot :=
  ⟨rfl, fun s => ⟨preconditionsRefuse_winRelease s, fun hv hn =>
    ⟨_, execWinRelease_of_window hv hn, (((CommandFrame.refl s).putRes _).putSlots _).completed .ok, rfl,
      slotReported_of_res rfl, rfl, rfl, rfl, fun _ => rfl⟩⟩⟩

/-- Settles O41: below lowest and above current are the two refusals; between them only lowest and the edge move. -/
theorem winAckMovesLowestAndEdge : Obligations.WinAckMovesLowestAndEdge :=
  ⟨rfl, fun s => ⟨preconditionsRefuse_winAck s, fun hv hn =>
    ⟨execWinAck_of_stale hv hn, execWinAck_of_ahead hv hn, fun hlow hcur =>
      ⟨_, execWinAck_of_in_flight hv hn hlow hcur, ((CommandFrame.refl s).putWin _).completed .ok, rfl, rfl,
        toNat_add_cap hn, rfl, rfl, fun _ => rfl⟩⟩⟩⟩

/-- Settles O42: SEQ_MAX is tested before the edge; below both, current is the one register that moves. -/
theorem winAdvanceStepsCurrent : Obligations.WinAdvanceStepsCurrent :=
  ⟨rfl, fun s => ⟨execWinAdvance_of_no_window, fun hv =>
    ⟨execWinAdvance_of_seqMax hv, execWinAdvance_of_full hv, fun hmax hedge =>
      ⟨_, execWinAdvance_of_room hv hmax hedge, ((CommandFrame.refl s).putWin _).completed .ok, rfl, rfl,
        toNat_add_one_of_lt_seqMax hmax, rfl, rfl, fun _ => rfl⟩⟩⟩⟩

/-- Settles O43: past the checks the mark is the only register that moves, to the greater of the two numbers. -/
theorem winObserveRaisesTheMark : Obligations.WinObserveRaisesTheMark :=
  ⟨rfl, fun s => ⟨preconditionsRefuse_winObserve s, fun hv hn =>
    ⟨_, execWinObserve_of_window hv hn, ((CommandFrame.refl s).putWin _).completed .ok, rfl, rfl,
      toNat_ite_lt_eq_max _ _, rfl, rfl, fun _ => rfl⟩⟩⟩

end Sys2Proof.Machine
end

section
/-! PROOFS. 60_exceptions.md R154 and R155: the host's writes that commute with a completion, and what lowers, keeps and
raises irq. -/

namespace Sys2Proof.Machine

/-! ## A command does not see CTRL, the argument registers or the bus response (R154) -/

/-- The state after a host write that changes CTRL.IE by `f`, the argument registers by `g`, and is answered at the
port. -/
def State.hostWrite (f : Bool → Bool) (g : Args → Args) (s : State) : State :=
  respondWrite ((s.putIe (f s.ie)).putArgs (g s.args))

/-- An outcome with `f` applied to its next state. -/
def mapNext (f : State → State) : Result → Result
  | .next s => .next (f s)
  | .fault r => .fault r
  | .refused r => .refused r

section
variable (f : Bool → Bool) (g : Args → Args) (s : State)

@[simp] theorem State.hostWrite_latch : (s.hostWrite f g).latch = s.latch := rfl

@[simp] theorem readBuf_hostWrite (b : Buf) (off n : Nat) :
    readBuf (s.hostWrite f g) b off n = readBuf s b off n := rfl

theorem writeHeader_hostWrite (seq : Word) (c : Half) (flag : Byte) :
    writeHeader (s.hostWrite f g) seq c flag = (writeHeader s seq c flag).hostWrite f g := rfl

@[simp] theorem windowCheck_hostWrite (usesSeq : Bool) :
    windowCheck usesSeq (s.hostWrite f g) = windowCheck usesSeq s := rfl

/-- A check that fails completes the command, on the same state with the host write before it and after it. -/
theorem check_eq_mapNext {c : Prop} [Decidable c] {F : State → State} {t u : State} {o o' : Result} (hu : u = F t)
    (ho : o' = mapNext F o) : (if c then .next u else o') = mapNext F (if c then .next t else o) := by
  subst hu ho
  split <;> rfl

/-- Every check and every value of a command comes from the latch and from fields the host write leaves, so each branch
is the same with the write before it and after it. -/
theorem exec_hostWrite (i : Instr) : exec i (s.hostWrite f g) = mapNext (State.hostWrite f g) (exec i s) := by
  cases i with
  | nop => rfl
  | cksum b =>
    refine check_eq_mapNext rfl ?_
    rw [readBuf_hostWrite, State.hostWrite_latch]
    split <;> rfl
  | encode =>
    refine check_eq_mapNext rfl (check_eq_mapNext rfl ?_)
    simp only [writeHeader_hostWrite, readBuf_hostWrite, State.hostWrite_latch]
    split <;> rfl
  | decode =>
    refine check_eq_mapNext rfl (check_eq_mapNext rfl ?_)
    rw [readBuf_hostWrite, State.hostWrite_latch]
    split
    · rfl
    · exact check_eq_mapNext rfl rfl
  | winInit => exact check_eq_mapNext rfl (check_eq_mapNext rfl rfl)
  | winAdd b =>
    simp only [exec, execWinAdd, windowCheck_hostWrite, readBuf_hostWrite, State.hostWrite_latch]
    split
    · rfl
    · refine check_eq_mapNext rfl ?_
      split <;> rfl
  | winRelease =>
    simp only [exec, execWinRelease, windowCheck_hostWrite]
    split <;> rfl
  | winGet copy =>
    simp only [exec, execWinGet, windowCheck_hostWrite]
    split
    · rfl
    · refine check_eq_mapNext rfl ?_
      cases copy <;> rfl
  | winAck =>
    simp only [exec, execWinAck, windowCheck_hostWrite]
    split
    · rfl
    · exact check_eq_mapNext rfl (check_eq_mapNext rfl rfl)
  | winAdvance =>
    simp only [exec, execWinAdvance, windowCheck_hostWrite]
    split
    · rfl
    · exact check_eq_mapNext rfl (check_eq_mapNext rfl rfl)
  | winObserve =>
    simp only [exec, execWinObserve, windowCheck_hostWrite]
    split <;> rfl

end

section
variable {s t u : State} {v : Word}

theorem writeCtrl_of_no_srst (h : v.getLsbD 1 = false) (s : State) : writeCtrl v s = s.putIe (v.getLsbD 0) := by
  simp only [writeCtrl, h, Bool.false_eq_true, if_false]

/-- What a write to an argument register makes of the argument registers depends on them and the word alone. -/
theorem exists_argsUpdate_of_isArgReg {r : Reg} (h : isArgReg r = true) (v : Word) :
    ∃ g : Args → Args, ∀ s, writeReg r v s = some (s.putArgs (g s.args)) := by
  cases r <;> cases h
  case argSeq => exact ⟨fun a => { a with seq := v }, fun _ => rfl⟩
  case argFlag => exact ⟨fun a => { a with flag := v.setWidth 8 }, fun _ => rfl⟩
  case argLen => exact ⟨fun a => { a with len := v.setWidth 11 }, fun _ => rfl⟩
  case argCap => exact ⟨fun a => { a with cap := v }, fun _ => rfl⟩
  case argChunk => exact ⟨fun a => { a with chunk := v.setWidth 11 }, fun _ => rfl⟩
  case ckOff => exact ⟨fun a => { a with ckOff := v.setWidth 11 }, fun _ => rfl⟩
  case ckLen => exact ⟨fun a => { a with ckLen := v.setWidth 11 }, fun _ => rfl⟩
  case rxLen => exact ⟨fun a => { a with rxLen := v.setWidth 11 }, fun _ => rfl⟩

/-- A write to an argument register, or to CTRL without SRST, is the same host write in every state. -/
theorem exists_hostWrite_of_busAccess {r : Reg} (h : isArgReg r = true ∨ (r = .ctrl ∧ v.getLsbD 1 = false)) :
    ∃ f g, ∀ s, busAccess (regWrite r v) s = .next (State.hostWrite f g s) := by
  obtain harg | ⟨rfl, hsrst⟩ := h
  · obtain ⟨g, hg⟩ := exists_argsUpdate_of_isArgReg harg v
    exact ⟨id, g, fun s => busAccess_write (hg s)⟩
  · exact ⟨fun _ => v.getLsbD 0, id, fun s => busAccess_write (congrArg some (writeCtrl_of_no_srst hsrst s))⟩

/-! ## irq after each operation (R155) -/

@[simp] theorem irq_respondWrite (s : State) : irq (respondWrite s) = irq s := rfl

@[simp] theorem irq_busErrorState (a : Access) (s : State) : irq (busErrorState a s) = irq s := rfl

@[simp] theorem irq_resetBlock (s : State) : irq (resetBlock s) = false := rfl

@[simp] theorem irq_putIe (s : State) (x : Bool) : irq (s.putIe x) = (x && s.status.done) := rfl

/-- A write to STATUS lowers irq exactly by clearing DONE. -/
theorem irq_writeStatus (v : Word) (s : State) : irq (writeStatus v s) = (irq s && !v.getLsbD 1) :=
  (Bool.and_assoc _ _ _).symm

theorem irq_submit_of_idle (w : Word) (h : s.engine = .idle) : irq (submit w s) = false := by
  rw [submit_of_idle w h]
  exact Bool.and_false _

theorem irq_submit_of_busy (w : Word) (h : s.engine = .busy) : irq (submit w s) = irq s := by
  rw [submit_of_busy w h]
  rfl

/-! ## The host raises irq only by the enable (R155) -/

/-- irq is 1 in `t` only if it was in `s`, or if IE went from 0 to 1 while DONE was 1. -/
def IrqKeptOrEnabled (s t : State) : Prop :=
  irq t = true → irq s = true ∨ (s.ie = false ∧ t.ie = true ∧ s.status.done = true)

theorem irqKeptOrEnabled_of_eq (h : irq t = irq s) : IrqKeptOrEnabled s t := fun ht => .inl (h ▸ ht)

theorem irqKeptOrEnabled_of_low (h : irq t = false) : IrqKeptOrEnabled s t := fun ht => by simp [h] at ht

/-- With DONE 1, an IE of 1 either stood already, and irq with it, or is new. -/
theorem irqKeptOrEnabled_putIe (s : State) (x : Bool) : IrqKeptOrEnabled s (s.putIe x) := by
  intro ht
  obtain ⟨hx, hdone⟩ := Bool.and_eq_true_iff.mp ht
  cases hie : s.ie with
  | true => exact .inl (Bool.and_eq_true_iff.mpr ⟨hie, hdone⟩)
  | false => exact .inr ⟨rfl, hx, hdone⟩

theorem writeReg_irqKeptOrEnabled {r : Reg} (h : writeReg r v s = some u) : IrqKeptOrEnabled s u := by
  obtain rfl | rfl | rfl | ⟨x, rfl⟩ := writeReg_cases h
  · unfold writeCtrl
    split
    · exact irqKeptOrEnabled_of_low (irq_resetBlock _)
    · exact irqKeptOrEnabled_putIe s _
  · rw [IrqKeptOrEnabled, irq_writeStatus]
    exact fun ht => .inl (Bool.and_eq_true_iff.mp ht).1
  · cases he : s.engine with
    | idle => exact irqKeptOrEnabled_of_low (irq_submit_of_idle v he)
    | busy => exact irqKeptOrEnabled_of_eq (irq_submit_of_busy v he)
  · exact irqKeptOrEnabled_of_eq rfl

theorem busAccess_irqKeptOrEnabled {a : Access} (h : busAccess a s = .next t) : IrqKeptOrEnabled s t := by
  obtain ⟨r, -, -, -, rfl⟩ | ⟨r, u, -, -, -, hu, rfl⟩ | ⟨-, -, w, rfl⟩ | ⟨-, -, b, off, bytes, -, -, rfl⟩ :=
    busAccess_cases h
  · exact irqKeptOrEnabled_of_eq rfl
  · have hraise := writeReg_irqKeptOrEnabled hu
    exact hraise
  · exact irqKeptOrEnabled_of_eq rfl
  · exact irqKeptOrEnabled_of_eq rfl

theorem hostTurn_irqKeptOrEnabled (h : hostTurn s = .next t) : IrqKeptOrEnabled s t := by
  obtain ⟨-, rfl⟩ | ⟨a, p, -, ha⟩ | ⟨rest, -, ⟨-, rfl⟩ | ⟨-, rfl⟩⟩ := hostTurn_cases h
  · exact irqKeptOrEnabled_of_eq rfl
  · exact busAccess_irqKeptOrEnabled (s := s.putProgram p) ha
  · exact irqKeptOrEnabled_of_eq rfl
  · exact irqKeptOrEnabled_of_eq rfl

/-- A turn of the engine after which irq is 1 is a completion with IE 1, or an idle turn, which changes nothing. -/
theorem engineTurn_irq (h : engineTurn s = .next t) (ht : irq t = true) :
    irq s = true ∨ (s.engine = .busy ∧ t.engine = .idle ∧ t.status.done = true ∧ s.ie = true) := by
  cases he : s.engine with
  | idle =>
    cases (engineTurn_of_idle he).symm.trans h
    exact .inl ht
  | busy =>
    have hc := engineTurn_completedWith he h
    exact .inr ⟨rfl, hc.idle, hc.done, hc.irq_eq.symm.trans ht⟩

end

/-! ## The obligations -/

/-- Settles O12: the write is one function of the state, and the command commutes with it. -/
theorem argumentWritesCommuteWithCompletion : Obligations.ArgumentWritesCommuteWithCompletion := by
  intro i r v s t hr h
  obtain ⟨f, g, hwrite⟩ := exists_hostWrite_of_busAccess hr
  have hexec : exec i (s.hostWrite f g) = .next (t.hostWrite f g) := by
    rw [exec_hostWrite, h]
    rfl
  exact ⟨_, _, hwrite s, hexec, hwrite t⟩

/-- Settles O29: irq after each access is irq after the operation that the access makes. -/
theorem irqFollowsDoneAndEnable : Obligations.IrqFollowsDoneAndEnable := by
  intro s v
  have ctrlWrite (hsrst : v.getLsbD 1 = false) :
      busAccess (regWrite .ctrl v) s = .next (respondWrite (s.putIe (v.getLsbD 0))) :=
    busAccess_write (congrArg some (writeCtrl_of_no_srst hsrst s))
  refine ⟨fun hdone => ⟨_, busAccess_write rfl, ?clearDone⟩,
    fun hidle => ⟨_, busAccess_cmdWrite v s, irq_submit_of_idle v hidle⟩,
    fun hbusy => ⟨_, busAccess_cmdWrite v s, irq_submit_of_busy v hbusy⟩,
    fun hsrst hie => ⟨_, ctrlWrite hsrst, ?disable⟩,
    fun hsrst hie hdone => ⟨_, ctrlWrite hsrst, ?enable⟩,
    fun a b t h => ?busError⟩
  case clearDone => rw [irq_respondWrite, irq_writeStatus, hdone, Bool.not_true, Bool.and_false]
  case disable => rw [irq_respondWrite, irq_putIe, hie, Bool.false_and]
  case enable => rw [irq_respondWrite, irq_putIe, hie, hdone, Bool.and_self]
  case busError => rw [busAccess_busError h, irq_busErrorState]

/-- Settles O30: of the three turns the engine's raises irq by a completion, the host's by the enable, and a reset
lowers it. -/
theorem irqRisesOnlyAtCompletionOrEnable : Obligations.IrqRisesOnlyAtCompletionOrEnable := by
  intro s t h hs ht
  have hlow : ¬ irq s = true := Bool.eq_false_iff.mp hs
  obtain ⟨p, hhost | hengine | hreset⟩ := step_cases h
  · have hraise := hostTurn_irqKeptOrEnabled (s := s.putSchedule p) hhost ht
    exact .inr (hraise.resolve_left hlow)
  · have hraise := engineTurn_irq (s := s.putSchedule p) hengine ht
    exact .inl (hraise.resolve_left hlow)
  · cases hreset
    rw [irq_resetBlock] at ht
    cases ht

end Sys2Proof.Machine
end

section
/-! PROOFS. 70_reset_and_hazards.md: the state a hardware reset leaves (R170), and the soft reset that equals it (R171). -/

namespace Sys2Proof.Machine

section
variable {s t : State}

/-! ## The reset state (R170) -/

theorem paramWord_eq_resetValue {c : Config} (hc : c.wf = true) : paramWord c = resetValue c .param := by
  have hvalue : resetValue c .param = BitVec.ofNat 32 (c.capMax + c.payloadMax * 2 ^ 17) := rfl
  rw [hvalue, ← paramWord_toNat hc, BitVec.ofNat_toNat, BitVec.setWidth_eq]

/-- At reset no status bit stands and the result code is OK, which is 0 (10_state.md R24). -/
theorem statusWord_resetBlock (s : State) : statusWord (resetBlock s) = 0 := by
  have hsame : statusWord (resetBlock s) = statusWord State.reset := rfl
  rw [hsame]
  decide

/-- PARAM follows the parameters; every other register is a constant or a field that the reset sets. -/
theorem readReg_resetBlock (hc : s.cfg.wf = true) (r : Reg) : readReg r (resetBlock s) = resetValue s.cfg r := by
  cases r
  case param => exact paramWord_eq_resetValue hc
  case status => exact statusWord_resetBlock s
  all_goals rfl

theorem resetState_resetBlock (hc : s.cfg.wf = true) : ResetState s (resetBlock s) where
  regs := readReg_resetBlock hc
  idle := rfl
  irq := irq_resetBlock s
  mem := Memory.read?_nil
  cfg := rfl
  program := rfl

/-- The answer to a write, which lies outside the block, leaves a reset state one. -/
theorem ResetState.respondWrite (h : ResetState s t) : ResetState s (respondWrite t) :=
  { h with regs := fun r => (readReg_respondWrite r t).trans (h.regs r) }

theorem readReg_putSchedule (r : Reg) (s : State) (p : List Mover) : readReg r (s.putSchedule p) = readReg r s := by
  cases r <;> rfl

/-- Who moves next lies outside the block too. -/
theorem ResetState.putSchedule (h : ResetState s t) (p : List Mover) : ResetState s (t.putSchedule p) :=
  { h with regs := fun r => (readReg_putSchedule r t p).trans (h.regs r) }

/-- The state right after reset is one that a further reset keeps. -/
theorem resetBlock_reset : resetBlock State.reset = State.reset := rfl

theorem step_of_hardReset_scheduled {rest : List Mover} (h : s.schedule = .hardReset :: rest) :
    step s = .next ((resetBlock s).putSchedule rest) := by
  simp only [step, h]
  rfl

/-! ## The soft reset (R171) -/

/-- The reset comes after the write of IE, and IE is lost with the rest. -/
theorem writeCtrl_of_srst {v : Word} (h : v.getLsbD 1 = true) (s : State) : writeCtrl v s = resetBlock s := by
  simp only [writeCtrl, h, if_true]
  rfl

theorem busAccess_softReset {v : Word} (h : v.getLsbD 1 = true) (s : State) :
    busAccess (regWrite .ctrl v) s = .next (respondWrite (resetBlock s)) :=
  busAccess_write (congrArg some (writeCtrl_of_srst h s))

end

/-! ## The obligations -/

/-- Settles O26: the step is the reset, and State.reset is a state that a reset leaves. -/
theorem hardwareResetGivesResetValues : Obligations.HardwareResetGivesResetValues := by
  have hreset := resetState_resetBlock (s := State.reset) (by decide)
  rw [resetBlock_reset] at hreset
  exact ⟨fun _ rest hc hsched =>
    ⟨_, step_of_hardReset_scheduled hsched, (resetState_resetBlock hc).putSchedule rest, rfl⟩, rfl, rfl, hreset⟩

/-- Settles O27: both resets leave the same block, and the port answers the write without error. -/
theorem softResetIsAReset : Obligations.SoftResetIsAReset := fun s _ hc hsrst =>
  ⟨_, busAccess_softReset hsrst s, (resetState_resetBlock hc).respondWrite, rfl, rfl,
    _, step_of_hardReset_scheduled rfl, rfl⟩

end Sys2Proof.Machine
end

section
/-! PROOFS. 41_checksum.md: the fold in closed form, the raw sum along a byte string, and the laws that follow from the
two (R110, R112 to R114, R116). -/

namespace Sys2Proof.Machine

/-! ## The fold (R110) -/

theorem foldClosed_of_le {S : Nat} (h : S ≤ 0xFFFF) : foldClosed S = S := by
  unfold foldClosed
  split <;> omega

theorem foldClosed_le (S : Nat) : foldClosed S ≤ 0xFFFF := by
  unfold foldClosed
  split <;> omega

theorem foldClosed_eq_zero_iff {S : Nat} : foldClosed S = 0 ↔ S = 0 := by
  unfold foldClosed
  split <;> omega

theorem foldClosed_mod (S : Nat) : foldClosed S % 0xFFFF = S % 0xFFFF := by
  unfold foldClosed
  split <;> omega

/-- The fold is the representative of its class modulo 0xFFFF in 1 to 0xFFFF, and 0 for 0 alone. -/
theorem foldClosed_congr {S T : Nat} (hzero : S = 0 ↔ T = 0) (hmod : S % 0xFFFF = T % 0xFFFF) :
    foldClosed S = foldClosed T := by
  unfold foldClosed
  split <;> split <;> omega

/-- A round of the end-around carry makes a sum above 0xFFFF smaller and keeps its class, so the loop ends at the
closed form. -/
theorem foldCarry_eq_foldClosed {fuel S : Nat} (h : S ≤ fuel) : foldCarry fuel S = foldClosed S := by
  induction fuel generalizing S with
  | zero => rw [Nat.le_zero.mp h]; rfl
  | succ fuel ih =>
    rw [foldCarry]
    split
    · next hle => exact (foldClosed_of_le hle).symm
    · rw [ih (by omega)]
      exact foldClosed_congr (by omega) (by omega)

/-! ## The checksum as a number -/

theorem toNat_eq_zero_iff {n : Nat} {x : BitVec n} : x.toNat = 0 ↔ x = 0 :=
  ⟨fun h => BitVec.eq_of_toNat_eq (h.trans BitVec.toNat_zero.symm), fun h => h ▸ BitVec.toNat_zero⟩

theorem cksum_toNat (f : List Byte) : (cksum f).toNat = 0xFFFF - foldClosed (rawSum f) := by
  rw [cksum, foldCarry_eq_foldClosed le_rfl, BitVec.toNat_ofNat, Nat.mod_eq_of_lt (by omega)]

theorem littleEndianCksum_toNat (f : List Byte) :
    (littleEndianCksum f).toNat = 0xFFFF - foldClosed (littleEndianSum f) := by
  rw [littleEndianCksum, foldCarry_eq_foldClosed le_rfl, BitVec.toNat_ofNat, Nat.mod_eq_of_lt (by omega)]

theorem cksum_congr {f g : List Byte} (h : rawSum f = rawSum g) : cksum f = cksum g := by
  rw [cksum, cksum, h]

/-- R114: a range verifies exactly when its raw sum is a positive multiple of 0xFFFF. -/
theorem cksum_eq_zero_iff {f : List Byte} : cksum f = 0 ↔ 0 < rawSum f ∧ rawSum f % 0xFFFF = 0 := by
  have hle := foldClosed_le (rawSum f)
  have hzero := foldClosed_eq_zero_iff (S := rawSum f)
  have hmod := foldClosed_mod (rawSum f)
  rw [← toNat_eq_zero_iff, cksum_toNat]
  omega

/-! ## The raw sum along a byte string -/

/-- The model's pairing and the spec's sum over word indexes are one number. -/
theorem rawSum_eq_wordSum (f : List Byte) : rawSum f = wordSum f := by
  induction f using rawSum.induct with
  | case1 => rfl
  | case2 hi => simp [rawSum, wordSum]
  | case3 hi lo rest ih =>
    have hwords : ((hi :: lo :: rest).length + 1) / 2 = (rest.length + 1) / 2 + 1 := by
      simp only [List.length_cons]; omega
    rw [rawSum, ih, wordSum, wordSum, hwords, Finset.sum_range_succ', Nat.add_comm]
    rfl

theorem wordSum_le (f : List Byte) : wordSum f ≤ (f.length + 1) / 2 * 0xFFFF := by
  have hword (i : Nat) : (f.getD (2 * i) 0).toNat * 256 + (f.getD (2 * i + 1) 0).toNat ≤ 0xFFFF := by
    have hhi := (f.getD (2 * i) 0).isLt
    have hlo := (f.getD (2 * i + 1) 0).isLt
    omega
  simpa [wordSum] using Finset.sum_le_card_nsmul (Finset.range ((f.length + 1) / 2)) _ _ fun i _ => hword i

theorem rawSum_eq_zero_iff {f : List Byte} : rawSum f = 0 ↔ ∀ b ∈ f, b = 0 := by
  induction f using rawSum.induct with
  | case1 => simp [rawSum]
  | case2 hi => simp [rawSum, toNat_eq_zero_iff]
  | case3 hi lo rest ih => simp [rawSum, toNat_eq_zero_iff, ih, and_assoc]

/-- After a string of whole words the pairing starts anew. -/
theorem rawSum_append {p : List Byte} (hp : p.length % 2 = 0) (q : List Byte) :
    rawSum (p ++ q) = rawSum p + rawSum q := by
  induction p using rawSum.induct with
  | case1 => simp [rawSum]
  | case2 hi => simp at hp
  | case3 hi lo rest ih =>
    have hrest : rest.length % 2 = 0 := by simp only [List.length_cons] at hp; omega
    simp only [List.cons_append, rawSum, ih hrest, Nat.add_assoc]

/-- One word at an even offset enters the sum by its value. -/
theorem rawSum_word_append {p : List Byte} (hp : p.length % 2 = 0) (hi lo : Byte) (q : List Byte) :
    rawSum (p ++ [hi, lo] ++ q) = rawSum p + (hi.toNat * 256 + lo.toNat) + rawSum q := by
  rw [List.append_assoc, rawSum_append hp, List.cons_append, List.cons_append, List.nil_append, rawSum,
    ← Nat.add_assoc]

/-- Two words at even offsets enter the sum by their values. -/
theorem rawSum_two_words {p m : List Byte} (hp : p.length % 2 = 0) (hm : m.length % 2 = 0) (a b c d : Byte)
    (q : List Byte) : rawSum (p ++ [a, b] ++ m ++ [c, d] ++ q) =
      rawSum p + rawSum m + rawSum q + (a.toNat * 256 + b.toNat + (c.toNat * 256 + d.toNat)) := by
  have hpm : (p ++ [a, b] ++ m).length % 2 = 0 := by
    simp only [List.length_append, List.length_cons, List.length_nil]; omega
  rw [rawSum_word_append hpm, rawSum_word_append hp]
  omega

/-- Zero bytes at the end add nothing: an odd trailing byte is already paired with a zero. -/
theorem rawSum_append_zeros (f : List Byte) (n : Nat) : rawSum (f ++ List.replicate n 0) = rawSum f := by
  have zeros (n : Nat) : rawSum (List.replicate n 0#8) = 0 :=
    rawSum_eq_zero_iff.mpr fun _ hb => List.eq_of_mem_replicate hb
  induction f using rawSum.induct with
  | case1 => exact zeros n
  | case2 hi =>
    cases n with
    | zero => rfl
    | succ n => simp [List.replicate_succ, rawSum, zeros]
  | case3 hi lo rest ih => simp only [List.cons_append, rawSum, ih]

/-! ## Byte order (R112) -/

/-- Swapping the bytes of each word multiplies the sum by 256 modulo 0xFFFF, where 256 * 256 is 1. -/
theorem littleEndianSum_mod (f : List Byte) : littleEndianSum f % 0xFFFF = 256 * rawSum f % 0xFFFF := by
  induction f using rawSum.induct with
  | case1 => rfl
  | case2 lo => simp only [littleEndianSum, rawSum]; omega
  | case3 lo hi rest ih => simp only [littleEndianSum, rawSum]; omega

theorem littleEndianSum_eq_zero_iff (f : List Byte) : littleEndianSum f = 0 ↔ rawSum f = 0 := by
  induction f using rawSum.induct with
  | case1 => rfl
  | case2 lo => simp only [littleEndianSum, rawSum]; omega
  | case3 lo hi rest ih => simp only [littleEndianSum, rawSum]; omega

/-- So the fold of one sum is the fold of the other with its two bytes swapped. -/
theorem foldClosed_littleEndianSum (f : List Byte) : foldClosed (littleEndianSum f) =
    foldClosed (rawSum f) % 256 * 256 + foldClosed (rawSum f) / 256 := by
  have hle := foldClosed_le (rawSum f)
  have hzero := foldClosed_eq_zero_iff (S := rawSum f)
  have hmod := foldClosed_mod (rawSum f)
  have hle' := littleEndianSum_eq_zero_iff f
  have hmod' := littleEndianSum_mod f
  rw [← foldClosed_of_le (S := foldClosed (rawSum f) % 256 * 256 + foldClosed (rawSum f) / 256) (by omega)]
  exact foldClosed_congr (by omega) (by omega)

theorem toNat_highByte (v : Half) : (v.extractLsb' 8 8).toNat = v.toNat / 256 := by
  have hv := v.isLt
  rw [BitVec.extractLsb'_toNat, Nat.shiftRight_eq_div_pow]
  omega

theorem toNat_lowByte (v : Half) : (v.extractLsb' 0 8).toNat = v.toNat % 256 := BitVec.extractLsb'_toNat ..

/-- Two halves have each other's bytes when their values do. -/
theorem be16Bytes_eq_reverse {v w : Half} (h : v.toNat = w.toNat % 256 * 256 + w.toNat / 256) :
    be16Bytes v = (be16Bytes w).reverse := by
  have hw := w.isLt
  have hhi : v.extractLsb' 8 8 = w.extractLsb' 0 8 :=
    BitVec.eq_of_toNat_eq (by rw [toNat_highByte, toNat_lowByte]; omega)
  have hlo : v.extractLsb' 0 8 = w.extractLsb' 8 8 :=
    BitVec.eq_of_toNat_eq (by rw [toNat_highByte, toNat_lowByte]; omega)
  simp [be16Bytes, hhi, hlo]

/-! ## The verification law (R113) -/

theorem rawSum_be16Bytes (v : Half) : rawSum (be16Bytes v) = v.toNat := by
  rw [be16Bytes, rawSum, rawSum, toNat_highByte, toNat_lowByte]
  omega

/-- A string whose zeroed word at an even offset is replaced by the string's checksum verifies. -/
theorem cksum_of_stored {p : List Byte} (hp : p.length % 2 = 0) (q : List Byte) :
    cksum (p ++ be16Bytes (cksum (p ++ [0, 0] ++ q)) ++ q) = 0 := by
  have hzeroed : rawSum (p ++ [0, 0] ++ q) = rawSum p + rawSum q := rawSum_word_append hp 0 0 q
  have hstored (c : Half) : rawSum (p ++ be16Bytes c ++ q) = rawSum p + rawSum q + c.toNat := by
    rw [List.append_assoc, rawSum_append hp, rawSum_append (p := be16Bytes c) (by simp), rawSum_be16Bytes]
    omega
  have hle := foldClosed_le (rawSum p + rawSum q)
  have hzero := foldClosed_eq_zero_iff (S := rawSum p + rawSum q)
  have hmod := foldClosed_mod (rawSum p + rawSum q)
  rw [cksum_eq_zero_iff, hstored, cksum_toNat, hzeroed]
  omega

/-! ## The obligations -/

/-- Settles O45: the loop is the closed form, the two raw sums are one, and a sum of words is bounded by their number. -/
theorem checksumIsTheClosedForm : Obligations.ChecksumIsTheClosedForm := by
  intro f
  refine ⟨rawSum_eq_wordSum f ▸ cksum_toNat f, fun hlen => ?_⟩
  have := wordSum_le f
  omega

/-- Settles O46: complementing commutes with swapping the two bytes of the fold. -/
theorem checksumBytesDoNotDependOnByteOrder : Obligations.ChecksumBytesDoNotDependOnByteOrder := by
  intro f
  have hle := foldClosed_le (rawSum f)
  apply be16Bytes_eq_reverse
  rw [cksum_toNat, littleEndianCksum_toNat, foldClosed_littleEndianSum]
  omega

/-- Settles O47: the bytes before and after the checksum field are the context in which the law holds. -/
theorem storedChecksumVerifies : Obligations.StoredChecksumVerifies := by
  intro f hlen h4 h5
  have hzeroed : f = f.take 4 ++ [0, 0] ++ f.drop 6 := by
    match f, hlen, h4, h5 with
    | _ :: _ :: _ :: _ :: _ :: _ :: _, _, rfl, rfl => rfl
  have hp : (f.take 4).length % 2 = 0 := by rw [List.length_take]; omega
  have hlaw := cksum_of_stored hp (f.drop 6)
  rwa [← hzeroed] at hlaw

/-- Settles O48: R114, and a sum of naturals that is 0 only when every byte is. -/
theorem zeroChecksumMeansMultipleOfFFFF : Obligations.ZeroChecksumMeansMultipleOfFFFF := by
  intro f
  rw [← rawSum_eq_wordSum, foldClosed_eq_zero_iff]
  refine ⟨cksum_eq_zero_iff, rawSum_eq_zero_iff, fun hf => BitVec.eq_of_toNat_eq ?_⟩
  rw [cksum_toNat, rawSum_eq_zero_iff.mpr hf]
  rfl

/-- Settles O50: each change keeps the raw sum, or changes it by 0xFFFF while it stays positive. -/
theorem someErrorsAreNotDetected : Obligations.SomeErrorsAreNotDetected := by
  have change {p m : List Byte} (q : List Byte) {a b c d a' b' c' d' : Byte} (hp : p.length % 2 = 0)
      (hm : m.length % 2 = 0) (h : a.toNat * 256 + b.toNat + (c.toNat * 256 + d.toNat) =
        a'.toNat * 256 + b'.toNat + (c'.toNat * 256 + d'.toNat)) :
      cksum (p ++ [a, b] ++ m ++ [c, d] ++ q) = cksum (p ++ [a', b'] ++ m ++ [c', d'] ++ q) :=
    cksum_congr (by rw [rawSum_two_words hp hm, rawSum_two_words hp hm, h])
  refine ⟨fun f hpos hmul => ?positiveMultiple, fun p m q a b c d hp hm h => ?swap, fun p q hp hpos => ?zeroWord,
    fun p m q a b c d a' b' c' d' hp hm hsum h => ?cancel, fun f n => cksum_congr (rawSum_append_zeros f n)⟩
  case positiveMultiple =>
    rw [← rawSum_eq_wordSum] at hpos hmul
    exact cksum_eq_zero_iff.mpr ⟨hpos, hmul⟩
  case swap => exact (change q hp hm (Nat.add_comm _ _)).symm.trans h
  case cancel => exact (change q hp hm hsum).symm.trans h
  case zeroWord =>
    have hff : rawSum (p ++ [0xFF, 0xFF] ++ q) = rawSum (p ++ [0, 0] ++ q) + 0xFFFF := by
      rw [rawSum_word_append hp, rawSum_word_append hp, show (0xFF : Byte).toNat = 0xFF from rfl,
        show (0 : Byte).toNat = 0 from rfl]
      omega
    rw [← rawSum_eq_wordSum] at hpos
    rw [cksum_eq_zero_iff, cksum_eq_zero_iff, hff]
    omega

end Sys2Proof.Machine
end

section
/-! PROOFS. What DECODE makes of a frame in RXF: a flipped bit is always found (41_checksum.md R115), and the frame ENCODE
built comes back as it was given (42_codec.md section 2). -/

namespace Sys2Proof.Machine

/-! ## One flipped bit (R115) -/

/-- Flipping bit `k` of a number changes it by `2 ^ k`, up or down. -/
theorem xor_two_pow (n k : Nat) : n ^^^ 2 ^ k = n + 2 ^ k ∨ (n ^^^ 2 ^ k) + 2 ^ k = n := by
  have hpos := Nat.two_pow_pos k
  have hlow : (n ^^^ 2 ^ k) % 2 ^ k = n % 2 ^ k := by
    rw [Nat.xor_mod_two_pow, Nat.mod_self, Nat.xor_zero]
  have hhigh : (n ^^^ 2 ^ k) / 2 ^ k = n / 2 ^ k ^^^ 1 := by
    rw [Nat.xor_div_two_pow, Nat.div_self hpos]
  have hsplit := Nat.div_add_mod (n ^^^ 2 ^ k) (2 ^ k)
  rw [hlow, hhigh] at hsplit
  have hn := Nat.div_add_mod n (2 ^ k)
  obtain heven | hodd := Nat.even_or_odd (n / 2 ^ k)
  · rw [Nat.xor_one_of_even heven, Nat.mul_add_one] at hsplit
    omega
  · obtain ⟨q, hq⟩ := Nat.exists_eq_add_of_le' hodd.pos
    rw [Nat.xor_one_of_odd hodd, hq, Nat.add_sub_cancel] at hsplit
    rw [hq, Nat.mul_add_one] at hn
    omega

theorem toNat_flippedByte (b : Byte) {k : Nat} (hk : k < 8) :
    (b ^^^ (1#8 <<< k)).toNat = b.toNat + 2 ^ k ∨ (b ^^^ (1#8 <<< k)).toNat + 2 ^ k = b.toNat := by
  have hbit : (1#8 <<< k).toNat = 2 ^ k := by
    rw [BitVec.toNat_shiftLeft, BitVec.toNat_ofNat, Nat.one_mod, Nat.one_shiftLeft,
      Nat.mod_eq_of_lt (Nat.pow_lt_pow_right (by decide) hk)]
  rw [BitVec.toNat_xor, hbit]
  exact xor_two_pow b.toNat k

/-- The factor with which byte `i` enters the raw sum: high bytes stand at even offsets. -/
def byteWeight (i : Nat) : Nat := if i % 2 = 0 then 256 else 1

theorem byteWeight_zero : byteWeight 0 = 256 := rfl

theorem byteWeight_one : byteWeight 1 = 1 := rfl

theorem byteWeight_eq_or (i : Nat) : byteWeight i = 256 ∨ byteWeight i = 1 := by
  unfold byteWeight
  split
  · exact .inl rfl
  · exact .inr rfl

theorem byteWeight_add_two (i : Nat) : byteWeight (i + 2) = byteWeight i := by
  rw [byteWeight, byteWeight, Nat.add_mod_right]

/-- Replacing one byte changes the raw sum by the change of that byte, at its weight. -/
theorem rawSum_set (f : List Byte) (i : Nat) (b : Byte) (h : i < f.length) :
    rawSum (f.set i b) + byteWeight i * f[i].toNat = rawSum f + byteWeight i * b.toNat := by
  induction f using rawSum.induct generalizing i with
  | case1 => simp at h
  | case2 hi =>
    obtain rfl : i = 0 := by simpa using h
    simp only [List.set_cons_zero, List.getElem_cons_zero, rawSum, byteWeight_zero]
    omega
  | case3 hi lo rest ih =>
    match i with
    | 0 =>
      simp only [List.set_cons_zero, List.getElem_cons_zero, rawSum, byteWeight_zero]
      omega
    | 1 =>
      simp only [List.set_cons_succ, List.set_cons_zero, List.getElem_cons_succ, List.getElem_cons_zero, rawSum,
        byteWeight_one]
      omega
    | i + 2 =>
      have hrest := ih i (by simpa using h)
      simp only [List.set_cons_succ, rawSum, List.getElem_cons_succ, byteWeight_add_two]
      omega

/-- So a flipped bit changes the raw sum by a power of two that is no multiple of 0xFFFF. -/
theorem cksum_flipBit_ne_zero {f : List Byte} {i k : Nat} (hf : cksum f = 0) (hi : i < f.length) (hk : k < 8) :
    cksum (flipBit f i k) ≠ 0 := by
  have hpos : 1 ≤ 2 ^ k := Nat.one_le_two_pow
  have hpow : 2 ^ k ≤ 2 ^ 7 := Nat.pow_le_pow_right (by decide) (Nat.le_of_lt_succ hk)
  have hset := rawSum_set f i (f.getD i 0 ^^^ (1#8 <<< k)) hi
  have hbyte := toNat_flippedByte (f.getD i 0) hk
  rw [List.getD_eq_getElem _ _ hi] at hset hbyte
  obtain ⟨-, hmod⟩ := cksum_eq_zero_iff.mp hf
  rw [Ne, cksum_eq_zero_iff, flipBit, List.getD_eq_getElem _ _ hi]
  rcases byteWeight_eq_or i with hweight | hweight <;> rw [hweight] at hset <;> omega

theorem flipBit_length (f : List Byte) (i k : Nat) : (flipBit f i k).length = f.length := List.length_set

/-- Settles O49: the flipped frame does not verify, and DECODE says so of a frame that does not. -/
theorem singleBitErrorsAreDetected : Obligations.SingleBitErrorsAreDetected := by
  intro f i k hf hi hk
  have hbad := cksum_flipBit_ne_zero hf hi hk
  refine ⟨hbad, fun s hc hrx hlo hhi hholds => ?_⟩
  obtain ⟨-, hdecode⟩ := decodeAcceptsFramesThatVerify
  obtain ⟨-, -, hframe⟩ := hdecode s hc
  obtain ⟨hfail, -⟩ := hframe (flipBit f i k) (hrx ▸ hlo) (hrx ▸ hhi) (by rw [flipBit_length, hrx]) hholds
  exact ⟨_, hfail hbad, rfl⟩

/-! ## The round trip (42_codec.md section 2) -/

section
variable {s t u : State} {payload : List Byte}

/-- An ENCODE that finishes OK passed its checks and found its payload in TXF. -/
theorem exists_payload_of_encode_ok (h : exec .encode s = .next t) (hok : t.status.rc = .ok) :
    s.latch.args.len.toNat ≤ s.cfg.payloadMax ∧ IsFlagByte s.cfg s.latch.args.flag ∧
      ∃ payload : List Byte, payload.length = s.latch.args.len.toNat ∧ HoldsBytes s .txf 7 payload := by
  obtain ⟨-, rfl⟩ | ⟨-, -, rfl⟩ | ⟨hlen, hflag, frame, hread, -⟩ := execEncode_cases h
  · cases hok
  · cases hok
  · obtain ⟨hframe, hbytes⟩ := readBuf_eq_ok_iff.mp hread
    refine ⟨hlen, isFlagCode_iff_isFlagByte.mp hflag, frame.drop hdrLen, by rw [List.length_drop]; omega, ?_⟩
    intro i hi
    rw [List.length_drop] at hi
    have hi' := hbytes (hdrLen + i) (by omega)
    rw [Nat.zero_add, read?_writeHeader_of_outside _ _ _ _ (by simp only [bufAddr]; omega)] at hi'
    rw [List.getElem_drop]
    exact hi'

theorem be32Bytes_injective {v w : Word} (h : be32Bytes v = be32Bytes w) : v = w := by
  simp only [be32Bytes, List.cons.injEq, and_true] at h
  obtain ⟨h3, h2, h1, h0⟩ := h
  rw [← be32_be32Bytes v, h3, h2, h1, h0, be32_be32Bytes w]

/-- The bytes a buffer holds are those of another buffer that reads the same. -/
theorem HoldsBytes.of_byte?_eq {b c : Buf} {bytes : List Byte} (h : HoldsBytes t b 0 bytes)
    (heq : ∀ i, i < bytes.length → u.byte? c i = t.byte? b i) : HoldsBytes u c 0 bytes := by
  intro i hi
  have hi' := h i hi
  rw [Nat.zero_add] at hi' ⊢
  exact (heq i hi).trans hi'

end

/-- Settles O51: ENCODE leaves the frame with its checksum stored (O33), which verifies (R113), so DECODE accepts it and
reports the fields of its header (O34). -/
theorem codecRoundTrip : Obligations.CodecRoundTrip := by
  intro s t u hc hcfg henc hok hrx hsame
  obtain ⟨hlen, hflag, payload, hpayload, hholds⟩ := exists_payload_of_encode_ok henc hok
  obtain ⟨-, hencode⟩ := encodeBuildsTheFrame
  obtain ⟨-, -, hbuilds⟩ := hencode s hc
  obtain ⟨t', henc', -, -, hframe, houtside, -⟩ := hbuilds payload hlen hflag hpayload hholds
  obtain rfl : t = t' := by
    rw [henc] at henc'
    exact Host.Outcome.next.inj henc'
  have hverifies := cksum_of_stored (p := be32Bytes s.latch.args.seq) (by simp) ([s.latch.args.flag] ++ payload)
  simp only [← List.append_assoc] at hverifies
  generalize cksum _ = c at hframe hverifies
  generalize hf : be32Bytes s.latch.args.seq ++ be16Bytes c ++ [s.latch.args.flag] ++ payload = frame at hframe hverifies
  have hframeLen : frame.length = 7 + s.latch.args.len.toNat := by
    rw [← hf, List.length_append, hpayload]
    rfl
  have hrxf := hframe.of_byte?_eq (u := u) (c := .rxf) (by rw [hframeLen]; exact hsame)
  obtain ⟨-, hdecode⟩ := decodeAcceptsFramesThatVerify
  obtain ⟨-, -, haccepts⟩ := hdecode u (hcfg ▸ hc)
  obtain ⟨-, hgood⟩ := haccepts frame (by omega) (by rw [hcfg]; omega) (by omega) hrxf
  obtain ⟨v, hexec, hcompleted, hknown, hseq, hflagByte, hresLen, hck, -, -, -, -, -, hmem⟩ := hgood hverifies
  have hseq' : v.res.seq = s.latch.args.seq := be32Bytes_injective (by rw [hseq, ← hf]; rfl)
  have hflag' : v.res.flag = s.latch.args.flag := by
    rw [← hf] at hflagByte
    exact (Option.some.inj hflagByte).symm
  refine ⟨v, hexec, hcompleted, hseq', hflag', BitVec.eq_of_toNat_eq (by omega), hknown.mpr ?_, hck, fun i hi => ?_⟩
  · rw [hflag', hcfg]
    exact hflag
  · calc v.byte? .rxf (7 + i) = u.byte? .rxf (7 + i) := hmem _
      _ = t.byte? .txf (7 + i) := hsame _ (by omega)
      _ = s.byte? .txf (7 + i) := houtside _ (by simp only [bufAddr]; omega)

end Sys2Proof.Machine
end

section
/-! PROOFS. What becomes of the window registers: the five ways a command leaves them (43_window.md section 1), and that
a turn of another agent keeps them or resets the block (10_state.md section 6, (d)). -/

namespace Sys2Proof.Machine

section
variable {s t u : State} {i : Instr}

/-! ## What a command leaves of the window and the slots -/

/-- What a command can make of the window registers: it keeps them, or it is one of the four commands that move them. -/
inductive WindowAfter (s t : State) : Instr → Prop
  | kept (i : Instr) (win : t.win = s.win) : WindowAfter s t i
  | init (win : t.win = freshWindow s.latch.args.cap s.latch.args.chunk) (rc : t.status.rc = .ok) :
      WindowAfter s t .winInit
  | acked (n e : Word) (win : t.win = { s.win with lowest := n, edge := e }) : WindowAfter s t .winAck
  | advanced (room : s.win.current.toNat < seqMax) (win : t.win = { s.win with current := s.win.current + 1 }) :
      WindowAfter s t .winAdvance
  | observed (m : Word) (mark : m.toNat = max s.win.hwm.toNat s.latch.args.seq.toNat)
      (win : t.win = { s.win with hwm := m }) : WindowAfter s t .winObserve

theorem exec_windowAfter (h : exec i s = .next t) : WindowAfter s t i := by
  cases i with
  | nop => cases h; exact .kept _ rfl
  | cksum b => obtain ⟨-, rfl⟩ | ⟨_, -, -, rfl⟩ := execCksum_cases h <;> exact .kept _ rfl
  | encode => obtain ⟨-, rfl⟩ | ⟨-, -, rfl⟩ | ⟨-, -, _, -, rfl⟩ := execEncode_cases h <;> exact .kept _ rfl
  | decode =>
    obtain ⟨-, rfl⟩ | ⟨-, rfl⟩ | ⟨-, -, _, -, ⟨-, rfl⟩ | ⟨-, rfl⟩⟩ := execDecode_cases h <;> exact .kept _ rfl
  | winInit =>
    obtain rfl | ⟨-, -, -, -, rfl⟩ := execWinInit_cases h
    · exact .kept _ rfl
    · exact .init rfl rfl
  | winAdd b => obtain ⟨_, -, rfl⟩ | ⟨-, -, rfl⟩ | ⟨-, -, _, -, rfl⟩ := execWinAdd_cases h <;> exact .kept _ rfl
  | winRelease => obtain ⟨_, -, rfl⟩ | ⟨-, rfl⟩ := execWinRelease_cases h <;> exact .kept _ rfl
  | winGet c =>
    obtain ⟨_, -, rfl⟩ | ⟨-, -, rfl⟩ | ⟨-, -, -, rfl⟩ | ⟨-, -, -, rfl⟩ := execWinGet_cases h <;> exact .kept _ rfl
  | winAck =>
    obtain ⟨_, -, rfl⟩ | ⟨-, rfl⟩ | ⟨-, rfl⟩ | ⟨-, -, -, rfl⟩ := execWinAck_cases h
    · exact .kept _ rfl
    · exact .kept _ rfl
    · exact .kept _ rfl
    · exact .acked _ _ rfl
  | winAdvance =>
    obtain ⟨_, -, rfl⟩ | ⟨-, rfl⟩ | ⟨-, rfl⟩ | ⟨-, hmax, -, rfl⟩ := execWinAdvance_cases h
    · exact .kept _ rfl
    · exact .kept _ rfl
    · exact .kept _ rfl
    · exact .advanced hmax rfl
  | winObserve =>
    obtain ⟨_, -, rfl⟩ | ⟨-, rfl⟩ := execWinObserve_cases h
    · exact .kept _ rfl
    · exact .observed _ (toNat_ite_lt_eq_max _ _) rfl

/-- The slots are written by WIN_INIT, WIN_ADD and WIN_RELEASE alone. -/
theorem exec_slots (h : exec i s = .next t) (hinit : i ≠ .winInit) (htx : i ≠ .winAdd .txf) (hrx : i ≠ .winAdd .rxf)
    (hrelease : i ≠ .winRelease) : t.slots = s.slots := by
  cases i with
  | nop => cases h; rfl
  | cksum b => obtain ⟨-, rfl⟩ | ⟨_, -, -, rfl⟩ := execCksum_cases h <;> rfl
  | encode => obtain ⟨-, rfl⟩ | ⟨-, -, rfl⟩ | ⟨-, -, _, -, rfl⟩ := execEncode_cases h <;> rfl
  | decode =>
    obtain ⟨-, rfl⟩ | ⟨-, rfl⟩ | ⟨-, -, _, -, ⟨-, rfl⟩ | ⟨-, rfl⟩⟩ := execDecode_cases h <;> rfl
  | winInit => exact absurd rfl hinit
  | winAdd b =>
    cases b
    · exact absurd rfl htx
    · exact absurd rfl hrx
  | winRelease => exact absurd rfl hrelease
  | winGet c =>
    obtain ⟨_, -, rfl⟩ | ⟨-, -, rfl⟩ | ⟨-, -, -, rfl⟩ | ⟨-, -, -, rfl⟩ := execWinGet_cases h <;> rfl
  | winAck => obtain ⟨_, -, rfl⟩ | ⟨-, rfl⟩ | ⟨-, rfl⟩ | ⟨-, -, -, rfl⟩ := execWinAck_cases h <;> rfl
  | winAdvance => obtain ⟨_, -, rfl⟩ | ⟨-, rfl⟩ | ⟨-, rfl⟩ | ⟨-, -, -, rfl⟩ := execWinAdvance_cases h <;> rfl
  | winObserve => obtain ⟨_, -, rfl⟩ | ⟨-, rfl⟩ := execWinObserve_cases h <;> rfl

/-! ## What a turn leaves of the window -/

/-- The window registers are as they were, or at their reset values with STATUS and the engine. -/
def WindowKeptOrReset (s t : State) : Prop :=
  t.win = s.win ∨ (t.win = Window.reset ∧ t.engine = .idle ∧ t.status = Status.reset)

theorem submit_win (w : Word) (s : State) : (submit w s).win = s.win := by
  unfold submit
  split <;> rfl

theorem writeReg_windowKeptOrReset {r : Reg} {v : Word} (h : writeReg r v s = some u) : WindowKeptOrReset s u := by
  obtain rfl | rfl | rfl | ⟨x, rfl⟩ := writeReg_cases h
  · unfold writeCtrl
    split
    · exact .inr ⟨rfl, rfl, rfl⟩
    · exact .inl rfl
  · exact .inl rfl
  · exact .inl (submit_win v s)
  · exact .inl rfl

theorem busAccess_windowKeptOrReset {a : Access} (h : busAccess a s = .next t) : WindowKeptOrReset s t := by
  obtain ⟨r, -, -, -, rfl⟩ | ⟨r, u, -, -, -, hu, rfl⟩ | ⟨-, -, v, rfl⟩ | ⟨-, -, b, off, bytes, -, -, rfl⟩ :=
    busAccess_cases h
  · exact .inl rfl
  · have hwrite := writeReg_windowKeptOrReset hu
    exact hwrite
  · exact .inl rfl
  · exact .inl rfl

theorem hostTurn_windowKeptOrReset (h : hostTurn s = .next t) : WindowKeptOrReset s t := by
  obtain ⟨-, rfl⟩ | ⟨a, p, -, ha⟩ | ⟨rest, -, ⟨-, rfl⟩ | ⟨-, rfl⟩⟩ := hostTurn_cases h
  · exact .inl rfl
  · exact busAccess_windowKeptOrReset (s := s.putProgram p) ha
  · exact .inl rfl
  · exact .inl rfl

/-- What 10_state.md section 6 (d) asks of a turn of the engine. -/
theorem engineTurn_current_and_mark (h : engineTurn s = .next t) :
    (s.win.current.toNat ≤ t.win.current.toNat ∧ s.win.hwm.toNat ≤ t.win.hwm.toNat) ∨
    (s.engine = .busy ∧ decode s.latch.w = .ok .winInit ∧ t.engine = .idle ∧ t.status.done = true ∧
      t.status.rc = .ok ∧ t.win.current = 0 ∧ t.win.hwm = 0) := by
  obtain ⟨-, rfl⟩ | ⟨hbusy, i, hw, hi⟩ | ⟨-, -, rfl⟩ := engineTurn_cases h
  · exact .inl ⟨le_rfl, le_rfl⟩
  · cases exec_windowAfter hi with
    | kept _ hwin => rw [hwin]; exact .inl ⟨le_rfl, le_rfl⟩
    | init hwin hrc =>
      have hc := exec_completedWith hi
      exact .inr ⟨hbusy, hw, hc.idle, hc.done, hrc, by rw [hwin]; rfl, by rw [hwin]; rfl⟩
    | acked _ _ hwin => rw [hwin]; exact .inl ⟨le_rfl, le_rfl⟩
    | advanced hmax hwin =>
      rw [hwin]
      exact .inl ⟨(Nat.le_succ _).trans_eq (toNat_add_one_of_lt_seqMax hmax).symm, le_rfl⟩
    | observed _ hmax hwin => rw [hwin]; exact .inl ⟨le_rfl, (Nat.le_max_left _ _).trans_eq hmax.symm⟩
  · exact .inl ⟨le_rfl, le_rfl⟩

end

/-! ## The obligations -/

/-- Settles O44: each of the ways a command can leave the window names the one command that takes it. -/
theorem windowStateChangesOnlyByItsCommands : Obligations.WindowStateChangesOnlyByItsCommands := by
  intro i s t h hi
  have hslots := exec_slots h hi
  cases exec_windowAfter h with
  | kept _ hwin =>
    rw [hwin]
    exact ⟨⟨rfl, rfl, rfl⟩, fun _ => rfl, fun _ => .inl rfl, fun _ => rfl, fun _ => ⟨rfl, rfl⟩, hslots⟩
  | init => exact absurd rfl hi
  | acked _ _ hwin =>
    rw [hwin]
    exact ⟨⟨rfl, rfl, rfl⟩, fun _ => rfl, fun _ => .inl rfl, fun _ => rfl, fun hne => absurd rfl hne, hslots⟩
  | advanced hmax hwin =>
    rw [hwin]
    exact ⟨⟨rfl, rfl, rfl⟩, fun hne => absurd rfl hne, fun _ => .inr (toNat_add_one_of_lt_seqMax hmax), fun _ => rfl,
      fun _ => ⟨rfl, rfl⟩, hslots⟩
  | observed _ _ hwin =>
    rw [hwin]
    exact ⟨⟨rfl, rfl, rfl⟩, fun _ => rfl, fun _ => .inl rfl, fun hne => absurd rfl hne, fun _ => ⟨rfl, rfl⟩, hslots⟩

/-- Settles O54: the host and the reset line keep the window or reset it, and the engine moves it by its commands. -/
theorem currentAndMarkNeverDecrease : Obligations.CurrentAndMarkNeverDecrease := by
  intro s t h
  obtain ⟨p, hhost | hengine | hreset⟩ := step_cases h
  · obtain hwin | hreset := hostTurn_windowKeptOrReset hhost
    · rw [hwin]
      exact .inl ⟨le_rfl, le_rfl⟩
    · exact .inr (.inr hreset)
  · obtain hmoved | hinit := engineTurn_current_and_mark hengine
    · exact .inl hmoved
    · exact .inr (.inl hinit)
  · cases hreset
    exact .inr (.inr ⟨rfl, rfl, rfl⟩)

end Sys2Proof.Machine
end

section
/-! PROOFS. The state after reset meets the invariant (70_reset_and_hazards.md R170), and the order of a DONE clear and a
completion (60_exceptions.md R154, log 14). -/

namespace Sys2Proof.Machine

/-- After reset there is no window, no written byte, and CAP_MAX empty slots. -/
theorem stateInv_resetWith {c : Config} (hc : c.wf = true) : StateInv (State.resetWith c) where
  cfg := hc
  memory := Memory.wf_nil
  mapped := by simp [State.resetWith]
  slotCount := by simp [State.resetWith]
  slotData x hx := by
    obtain ⟨-, rfl⟩ := List.mem_replicate.mp hx
    simp [Slot.reset]
  busy := nofun
  noWindow _ := rfl
  window := nofun

/-- Settles O28: State.reset has the default parameters, which are legal. -/
theorem resetMeetsTheInvariant : Obligations.ResetMeetsTheInvariant :=
  ⟨fun _ => stateInv_resetWith, stateInv_resetWith (by decide)⟩

theorem writeStatus_done (v : Word) (s : State) : (writeStatus v s).status.done = (s.status.done && !v.getLsbD 1) := rfl

theorem busAccess_statusWrite (v : Word) (s : State) :
    busAccess (regWrite .status v) s = .next (respondWrite (writeStatus v s)) := busAccess_write rfl

/-- Settles O13: the later of the two writes to DONE stands. -/
theorem doneClearAtCompletionDependsOnOrder : Obligations.DoneClearAtCompletionDependsOnOrder := by
  intro s _ _
  refine ⟨_, _, _, busAccess_statusWrite 0x2 s, rfl, rfl, rfl, _, busAccess_statusWrite 0x2 _, ?_⟩
  rw [respondWrite_status, writeStatus_done]
  exact Bool.and_false _

end Sys2Proof.Machine
end
